-- ==== Sys2Proof/Word.lean ====
section
/-!
DEFINITION. Word types of the block: the protocol byte (R57), the 10-bit decode word (R58) and the 32-bit ARGB
colour word (R44).
-/

namespace Sys2Proof

/-- One protocol byte, or one byte of the memory interface (R8, R45, R57). -/
abbrev Byte := BitVec 8

/-- The decode word: two bits of protocol-state code above the transmitted byte (R58). -/
abbrev DecodeWord := BitVec 10

/-- A 32-bit ARGB word, alpha in bits 31:24 (R44). -/
abbrev Argb := BitVec 32

end Sys2Proof
end

