-- ==== Sys2Proof/Config.lean ====
section
/-!
DEFINITION. The fixed canvas size (R8), the parameters the spec has a model take as arguments (R9, R29, R30), and the
free values. A parameter the spec leaves open is an opaque constant here, so nothing can be proved about its value;
a parameter the spec decides has the spec's default. The parameters are gathered in one record, which State
carries as a constant, so that a statement about every state holds for every choice of them (log 1).
-/

namespace Sys2Proof

/-- CANVAS_W (R8). -/
abbrev canvasW : Nat := 96

/-- CANVAS_H (R8). -/
abbrev canvasH : Nat := 64

/-- SPRITE_BOUNDS: which bounds check a sprite pixel read undergoes (R113). -/
inductive SpriteBounds where
  | rect
  | linear
deriving DecidableEq, Repr

/-- RESET_ADDRESSING: the reset values of the addressing registers (R9, R34). -/
structure AddressingReset where
  column     : BitVec 8
  pageSelect : BitVec 4
  pageOffset : BitVec 5
  contrast   : BitVec 8
  powerSave  : Bool
deriving DecidableEq, Repr

/-- The parameters of R9. -/
structure Config where
  /-- PALETTE: four 24-bit 0x00RRGGBB entries (R29). -/
  palette : Vector (BitVec 24) 4
  /-- WALKER_ID (R97). -/
  walkerId : String
  /-- CS_PORT (R69). -/
  csPort : Nat
  /-- CS_PIN (R69). -/
  csPin : Nat
  /-- VRAM_BASE: memory-interface address of VRAM index 0 (R45). -/
  vramBase : Nat
  /-- VRAM_BYTES: how many VRAM bytes the memory interface backs (R45). -/
  vramBytes : Nat
  /-- TICK_PERIOD: processor ticks between two Ticks; no rule depends on it (R95). -/
  tickPeriod : Nat
  /-- COMPOSITE_WHILE_POWERSAVE (R85). -/
  compositeWhilePowerSave : Bool
  /-- SPRITE_BOUNDS (R113). -/
  spriteBounds : SpriteBounds
  /-- FORCE_OPAQUE (R116). -/
  forceOpaque : Bool
  /-- RESET_ADDRESSING (R34). -/
  resetAddressing : AddressingReset
deriving DecidableEq, Repr

/-- FREE VALUE: the palette of the machine (D8: open). -/
opaque Config.openPalette : Vector (BitVec 24) 4

/-- FREE VALUE: the reserved walker identifier (D13: open). -/
opaque Config.openWalkerId : String

/-- FREE VALUE: the chip-select port (D6: open). -/
opaque Config.openCsPort : Nat

/-- FREE VALUE: the chip-select pin's bit number (D6: open). -/
opaque Config.openCsPin : Nat

/-- FREE VALUE: the address of VRAM index 0 (D9: open). -/
opaque Config.openVramBase : Nat

/-- FREE VALUE: how many bytes of VRAM there are (D9: open). -/
opaque Config.openVramBytes : Nat

/-- FREE VALUE: TICK_PERIOD less one; the period itself is at least 1 (R9, D20: open). -/
opaque Config.openTickPeriodLessOne : Nat

/-- FREE VALUE: the byte that the `n`th VRAM read returns if its index is at or beyond VRAM_BYTES: "a draw (any byte,
chosen by the environment, under no law)" (R45, I5; log 8). -/
opaque Config.freeVramByte : Nat → Byte

/-- The spec's default for RESET_ADDRESSING: all zero (R9, D2; log 2, DESIGN CHOICE). -/
def AddressingReset.zero : AddressingReset :=
  { column := 0, pageSelect := 0, pageOffset := 0, contrast := 0, powerSave := false }

/-- The machine's parameters at reset: open ones free, decided ones at the spec's default (R9; log 1, 2, 14). -/
def Config.machine : Config where
  palette := Config.openPalette
  walkerId := Config.openWalkerId
  csPort := Config.openCsPort
  csPin := Config.openCsPin
  vramBase := Config.openVramBase
  vramBytes := Config.openVramBytes
  tickPeriod := Config.openTickPeriodLessOne + 1
  compositeWhilePowerSave := true
  spriteBounds := .rect
  forceOpaque := false
  resetAddressing := AddressingReset.zero

end Sys2Proof
end

