-- ==== Sys2Proof/Syntax.lean ====
section
/-!
DEFINITION. Syntax: the protocol states (R20), one constructor per byte command of the opcode table (R61, R68) and the
pseudo-instructions (R66). The command IGN has 21 rows in the table (its 209 bytes split into aligned blocks,
R62) and one constructor here (log 17).
-/

namespace Sys2Proof

/-- `S.protocolState` (R20). -/
inductive ProtocolState where
  | waiting
  | awaitingContrast
  | awaitingPageOffset
deriving DecidableEq, Repr

/-- The byte commands of R61, with the operand fields of R59. -/
inductive Instr where
  /-- COL.LO n (R73). -/
  | colLo (n : BitVec 4)
  /-- COL.HI n (R74). -/
  | colHi (n : BitVec 3)
  /-- PGOFS.PFX k, `k` discarded (R75). -/
  | pgofsPfx (k : BitVec 2)
  /-- CONTRAST.PFX (R76). -/
  | contrastPfx
  /-- PAGE n (R77). -/
  | page (n : BitVec 4)
  /-- PSAVE.ON (R78). -/
  | psaveOn
  /-- PSAVE.OFF (R79). -/
  | psaveOff
  /-- CONTRAST.ARG v (R80). -/
  | contrastArg (v : Byte)
  /-- PGOFS.ARG v (R81). -/
  | pgofsArg (v : Byte)
  /-- IGN b, for a byte `b` that is no command (R82). -/
  | ign (b : Byte)
deriving DecidableEq, Repr

/-- The mnemonic of R61. -/
def Instr.mnemonic : Instr → String
  | .colLo _ => "COL.LO"
  | .colHi _ => "COL.HI"
  | .pgofsPfx _ => "PGOFS.PFX"
  | .contrastPfx => "CONTRAST.PFX"
  | .page _ => "PAGE"
  | .psaveOn => "PSAVE.ON"
  | .psaveOff => "PSAVE.OFF"
  | .contrastArg _ => "CONTRAST.ARG"
  | .pgofsArg _ => "PGOFS.ARG"
  | .ign _ => "IGN"

/-- The pseudo-instructions of R66; `COL c` takes 7 bits and `PGOFS p` takes 5. -/
inductive Pseudo where
  | col (c : BitVec 7)
  | contrast (v : Byte)
  | pgofs (p : BitVec 5)
deriving DecidableEq, Repr

end Sys2Proof
end

