-- ==== Sys2Proof/WellFormed.lean ====
section
/-!
DEFINITION. Well-formedness. The operand widths of R59 are in the types of `Instr`; what is left to check is that the byte
of an IGN is one of the 209 ignored bytes (R61, R65), and that TICK_PERIOD is at least 1 (R9).
-/

namespace Sys2Proof

/-- The bytes R61 marks IGN: 0x18 to 0x3F, 0x44 to 0x80, 0x82 to 0xA8, 0xAA to 0xAF, 0xC0 to 0xE0, 0xE2 to 0xFF. -/
def isIgnByte (b : Byte) : Bool :=
  (0x18 ≤ b && b ≤ 0x3F) || (0x44 ≤ b && b ≤ 0x80) || (0x82 ≤ b && b ≤ 0xA8) ||
    (0xAA ≤ b && b ≤ 0xAF) || (0xC0 ≤ b && b ≤ 0xE0) || 0xE2 ≤ b

/-- The constraint column of R65. -/
def Instr.wellFormed : Instr → Bool
  | .colLo _ => true
  | .colHi _ => true
  | .pgofsPfx _ => true
  | .contrastPfx => true
  | .page _ => true
  | .psaveOn => true
  | .psaveOff => true
  | .contrastArg _ => true
  | .pgofsArg _ => true
  | .ign b => isIgnByte b

/-- The type column of R9: TICK_PERIOD is a natural of at least 1. -/
def Config.wellFormed (c : Config) : Bool := decide (1 ≤ c.tickPeriod)

end Sys2Proof
end

