-- ==== Sys2Proof/Decode.lean ====
section
/-!
DEFINITION. The decoder of the command protocol (R57 to R64), total on every decode word and rejecting only the state code 0b11,
and the encoder (R59, R65); the opcode table as data (R68); decoding of byte streams (R64) and the pseudo-instructions'
expansions (R66).
-/

namespace Sys2Proof

/-- The state codes of R58. -/
def stateCode : ProtocolState → BitVec 2
  | .waiting => 0b00
  | .awaitingContrast => 0b01
  | .awaitingPageOffset => 0b10

/-- The protocol state a code names; 0b11 names none (R58). -/
def stateOfCode (c : BitVec 2) : Option ProtocolState :=
  if c = 0b00 then some .waiting
  else if c = 0b01 then some .awaitingContrast
  else if c = 0b10 then some .awaitingPageOffset
  else none

/-- The decode word of a byte read in a protocol state (R58). -/
def decodeWordOf (p : ProtocolState) (b : Byte) : DecodeWord := stateCode p ++ b

/-- The state-code field `w[9:8]` of a decode word (R58). -/
def codeField (w : DecodeWord) : BitVec 2 := w.extractLsb' 8 2

/-- The byte field `w[7:0]` of a decode word (R58). -/
def byteField (w : DecodeWord) : Byte := w.extractLsb' 0 8

/-- The command a byte selects in `Waiting` (R61, R72). -/
def decodeWaiting (b : Byte) : Instr :=
  if b ≤ 0x0F then .colLo (b.extractLsb' 0 4)
  else if 0x10 ≤ b ∧ b ≤ 0x17 then .colHi (b.extractLsb' 0 3)
  else if 0x40 ≤ b ∧ b ≤ 0x43 then .pgofsPfx (b.extractLsb' 0 2)
  else if b = 0x81 then .contrastPfx
  else if 0xB0 ≤ b ∧ b ≤ 0xBF then .page (b.extractLsb' 0 4)
  else if b = 0xA9 then .psaveOn
  else if b = 0xE1 then .psaveOff
  else .ign b

/-- The command a byte selects in a protocol state (R61, R72): in the two awaiting states every byte is a parameter. -/
def decodeIn (p : ProtocolState) (b : Byte) : Instr :=
  match p with
  | .waiting => decodeWaiting b
  | .awaitingContrast => .contrastArg b
  | .awaitingPageOffset => .pgofsArg b

/-- The decoder: the command a decode word selects, none for the state code 0b11 (R58). -/
def decodeWord (w : DecodeWord) : Option Instr :=
  (stateOfCode (codeField w)).map fun p => decodeIn p (byteField w)

/-- The protocol state in which a command is read (R59, column w[9:8]). -/
def Instr.readIn : Instr → ProtocolState
  | .contrastArg _ => .awaitingContrast
  | .pgofsArg _ => .awaitingPageOffset
  | .colLo _ => .waiting
  | .colHi _ => .waiting
  | .pgofsPfx _ => .waiting
  | .contrastPfx => .waiting
  | .page _ => .waiting
  | .psaveOn => .waiting
  | .psaveOff => .waiting
  | .ign _ => .waiting

/-- The byte of a command (R65). -/
def encodeByte : Instr → Byte
  | .colLo n => 0x00 ||| n.zeroExtend 8
  | .colHi n => 0x10 ||| n.zeroExtend 8
  | .pgofsPfx k => 0x40 ||| k.zeroExtend 8
  | .contrastPfx => 0x81
  | .page n => 0xB0 ||| n.zeroExtend 8
  | .psaveOn => 0xA9
  | .psaveOff => 0xE1
  | .contrastArg v => v
  | .pgofsArg v => v
  | .ign b => b

/-- The encoder: the decode word of a command (R58, R59, R65). -/
def encode (i : Instr) : DecodeWord := decodeWordOf i.readIn (encodeByte i)

/-- The instruction the decoder reads from a word numbered as the opcode table numbers it: the table's word is the 10-bit
decode word of R58, and no word with a bit above bit 9 is one. -/
def decodeTableWord (nbits w : Nat) : Option Instr :=
  if w % 2 ^ nbits < 1024 then decodeWord (BitVec.ofNat 10 (w % 2 ^ nbits)) else none

/-- One row of the opcode table: a word `w` selects the row when `w & mask == match` (R58). -/
structure OpcodeRow where
  mnemonic : String
  matchBits : DecodeWord
  mask : DecodeWord
deriving DecidableEq, Repr

/-- Whether a word selects a row (R58). -/
def OpcodeRow.selects (r : OpcodeRow) (w : DecodeWord) : Bool := w &&& r.mask == r.matchBits

/-- The nine command and parameter rows of the table (R61). -/
def commandRows : List OpcodeRow :=
  [⟨"COL.LO", 0x000, 0x3F0⟩, ⟨"COL.HI", 0x010, 0x3F8⟩, ⟨"PGOFS.PFX", 0x040, 0x3FC⟩, ⟨"CONTRAST.PFX", 0x081, 0x3FF⟩,
   ⟨"PAGE", 0x0B0, 0x3F0⟩, ⟨"PSAVE.ON", 0x0A9, 0x3FF⟩, ⟨"PSAVE.OFF", 0x0E1, 0x3FF⟩, ⟨"CONTRAST.ARG", 0x100, 0x300⟩,
   ⟨"PGOFS.ARG", 0x200, 0x300⟩]

/-- The match and mask of the 21 aligned blocks of ignored bytes, as R62 lists them over the byte. -/
def ignBlocks : List (Byte × Byte) :=
  [(0x18, 0xF8), (0x20, 0xE0), (0x44, 0xFC), (0x48, 0xF8), (0x50, 0xF0), (0x60, 0xE0), (0x80, 0xFF)] ++
  [(0x82, 0xFE), (0x84, 0xFC), (0x88, 0xF8), (0x90, 0xF0), (0xA0, 0xF8), (0xA8, 0xFF), (0xAA, 0xFE)] ++
  [(0xAC, 0xFC), (0xC0, 0xE0), (0xE0, 0xFF), (0xE2, 0xFE), (0xE4, 0xFC), (0xE8, 0xF8), (0xF0, 0xF0)]

/-- The opcode table as data (R68); a block of R62 gets the state code's `0x000/0x300` added. -/
def opcodeRows : List OpcodeRow :=
  commandRows ++ ignBlocks.map fun (m, k) => ⟨"IGN", m.zeroExtend 10, 0x300 ||| k.zeroExtend 10⟩

/-- The protocol state a command leaves when it is read where it belongs (R83). -/
def Instr.leaves : Instr → ProtocolState
  | .pgofsPfx _ => .awaitingPageOffset
  | .contrastPfx => .awaitingContrast
  | .colLo _ => .waiting
  | .colHi _ => .waiting
  | .page _ => .waiting
  | .psaveOn => .waiting
  | .psaveOff => .waiting
  | .contrastArg _ => .waiting
  | .pgofsArg _ => .waiting
  | .ign _ => .waiting

/-- The number of bytes of the command that a byte read in `Waiting` starts (R64). -/
def commandLength (b : Byte) : Nat :=
  if (0x40 ≤ b ∧ b ≤ 0x43) ∨ b = 0x81 then 2 else 1

/-- Decoding of a byte stream that is read from a given protocol state on (R64). -/
def decodeStream (p : ProtocolState) : List Byte → List Instr
  | [] => []
  | b :: rest => decodeIn p b :: decodeStream (decodeIn p b).leaves rest

/-- A list of commands as R65 allows it from a protocol state on: each is well formed and is read in the state the one before it
left, so a parameter stands only directly after its prefix byte. -/
def streamWellFormed (p : ProtocolState) : List Instr → Bool
  | [] => true
  | i :: rest => i.wellFormed && decide (i.readIn = p) && streamWellFormed i.leaves rest

/-- The expansions of R66. -/
def Pseudo.expand : Pseudo → List Instr
  | .col c => [.colLo (c.extractLsb' 0 4), .colHi (c.extractLsb' 4 3)]
  | .contrast v => [.contrastPfx, .contrastArg v]
  | .pgofs p => [.pgofsPfx 0, .pgofsArg (p ++ (0 : BitVec 3))]

/-- The bytes of a pseudo-instruction (R66). -/
def Pseudo.bytes (q : Pseudo) : List Byte := q.expand.map encodeByte

end Sys2Proof
end

