-- ==== Sys2Proof/Machine/State.lean ====
section
/-!
DEFINITION. The state of the block (R13), the constant parameters (R9), the environment's side of its interface (R32, R33,
R131) as plain data, the reasons a step can stop, and reset (R34, R136).
-/

namespace Sys2Proof.Machine

/-- A 96 by 64 array: 64 rows of 96 elements, row `y` first, then column `x` (R28, R51). -/
abbrev Canvas (α : Type) := Vector (Vector α canvasW) canvasH

/-- `S.anim` (R23). -/
structure Anim where
  lastHash     : Option (BitVec 32)
  currentFrame : Fin 2
deriving DecidableEq, Repr

/-- A catalog entry (R25). -/
structure Sprite where
  pixels : List Argb
  width  : Nat
  height : Nat
deriving DecidableEq, Repr

/-- A queued draw command (R26; the fields' types are D18, log 16). -/
structure DrawCommand where
  spriteId           : String
  destX              : Int
  destY              : Int
  destWidth          : Nat
  destHeight         : Nat
  explicitFrameIndex : Nat
  provenanceKey      : Nat
deriving DecidableEq, Repr

/-- The two status flags on the bus peer (R71). -/
structure BusFlags where
  transmitBufferEmpty : Bool
  transmitComplete    : Bool
deriving DecidableEq, Repr

/-- What the environment can do to the block (R32, R67, R131). -/
inductive Input where
  /-- The processor writes byte `b` to the bus, which delivers it as `Transmit(b)` while `CanExecute()` is true (R70). -/
  | offerByte (b : Byte)
  /-- `Tick()` (R85). -/
  | tick
  /-- `NotifyWalkerDrawn(h)` (R98). -/
  | notifyWalkerDrawn (h : BitVec 32)
  /-- `SetColorSprite(id, pixels, width, height)`; `none` is the null sprite buffer (R100). -/
  | setColorSprite (id : String) (pixels : Option (List Argb)) (width height : Nat)
  /-- `QueueDraw(cmd)` (R102). -/
  | queueDraw (cmd : DrawCommand)
  /-- A pin of a bus port takes a level: `PIN l` of R67, and any other pin. -/
  | setPin (port pin : Nat) (level : Bool)
  /-- The firmware writes one byte through the memory interface (R48). -/
  | writeByte (addr : Nat) (v : Byte)
  /-- The firmware writes a little-endian pair through the memory interface (R43). -/
  | writeShort (addr : Nat) (v : BitVec 16)
  /-- The bus peer writes its own two flags; who does so, and when, is outside the block (R22, R71). -/
  | peerSetsFlags (f : BusFlags)
deriving DecidableEq, Repr

/-- What the block emits (R33). -/
inductive Output where
  /-- `SetTxFlags()` (R71). -/
  | setTxFlags
  /-- `FramePublished(idx, col)` (R94). -/
  | framePublished (idx : Canvas (BitVec 2)) (col : Canvas Argb)
deriving DecidableEq, Repr

/-- The whole state: the block's record of R13, the parameters, and the environment's side of the interface. -/
structure State where
  /-- The column register (R15). -/
  column : BitVec 8
  /-- The page-select register (R16). -/
  pageSelect : BitVec 4
  /-- The page-offset register (R17). -/
  pageOffset : BitVec 5
  /-- The contrast register (R18). -/
  contrast : BitVec 8
  /-- The power-save flag (R19). -/
  powerSave : Bool
  /-- The protocol state (R20). -/
  protocolState : ProtocolState
  /-- The hidden sub-byte offset (R21). -/
  subOffset : Nat
  /-- The Animation Synchronizer (R23). -/
  anim : Anim
  /-- The sprite catalog, in rising order of identifiers (R24). -/
  catalog : List (String × Sprite)
  /-- The draw-command queue, oldest first (R27). -/
  queue : List DrawCommand
  /-- The palette indices of the last completed Tick (R28). -/
  indexOut : Option (Canvas (BitVec 2))
  /-- The colours of the last completed Tick (R28). -/
  colorOut : Option (Canvas Argb)
  /-- The parameters: constant, written by no step (R9, R30; log 1). -/
  cfg : Config
  /-- ENVIRONMENT. The bus ports' bitmasks, in rising order of port ids; an unlisted port reads 0 (R11; log 6). -/
  ports : List (Nat × Nat)
  /-- ENVIRONMENT. The bytes of the memory interface, in canonical form (R45, R48; log 7). -/
  mem : List Host.Cell
  /-- MODEL. How many VRAM reads the block has made; the next free value is drawn from here (R45, R47; log 8). -/
  vramReads : Nat
  /-- ENVIRONMENT. The bus peer's flags (R71; log 11). -/
  busFlags : BusFlags
  /-- ENVIRONMENT. What the environment does next, in order (R32, R125; log 10). -/
  inputs : List Input
  /-- ENVIRONMENT. What the block has emitted, oldest first (R33; log 11). -/
  outputs : List Output
deriving DecidableEq, Repr

/-- The reasons a step can fault: none. "No operation of the block raises an exception, stops, or signals an error"
(R122), so no constructor is given; this is exact, hence safe (log 22). -/
inductive Fault : Type
deriving DecidableEq, Repr

/-- The reasons for which a step has no meaning. -/
inductive Refusal where
  /-- Raised by an arm of exec whose instruction has no meaning yet; none is left. Safe. -/
  | notModelled (mnemonic : String)
  /-- Raised by `runWord` on a decode word with the state code 0b11, which names no protocol state: "a model meeting it
  refuses" (R58, D33). Safe. -/
  | reservedStateCode
deriving DecidableEq, Repr

/-- The state at process start, for a choice of the parameters (R34, R136). -/
def State.resetWith (c : Config) : State where
  column := c.resetAddressing.column
  pageSelect := c.resetAddressing.pageSelect
  pageOffset := c.resetAddressing.pageOffset
  contrast := c.resetAddressing.contrast
  powerSave := c.resetAddressing.powerSave
  protocolState := .waiting
  subOffset := 0
  anim := { lastHash := none, currentFrame := 0 }
  catalog := []
  queue := []
  indexOut := none
  colorOut := none
  cfg := c
  ports := []
  mem := []
  vramReads := 0
  busFlags := { transmitBufferEmpty := false, transmitComplete := false }
  inputs := []
  outputs := []

/-- The machine right after reset (R34, R136). -/
def State.reset : State := State.resetWith Config.machine

end Sys2Proof.Machine
end

