-- ==== Sys2Proof/Machine/Ops.lean ====
section
/-!
DEFINITION. The named operations over the parts of the state: finite maps in canonical form, the memory interface and VRAM (R41
to R49), the bus port and the chip-select gate (R69), canvases (R51), and emission of outputs (R33). The block takes no
exception and returns from none (R122, R126, R127), so no such operation stands here.
-/

namespace Sys2Proof.Machine

/-! Finite maps, as lists of pairs in strictly rising order of keys. -/

/-- The value a map gives a key. -/
def mapFind {κ α : Type} [LinearOrder κ] : List (κ × α) → κ → Option α
  | [], _ => none
  | (j, v) :: rest, k => if j = k then some v else mapFind rest k

/-- A map with one entry created or replaced. -/
def mapInsert {κ α : Type} [LinearOrder κ] : List (κ × α) → κ → α → List (κ × α)
  | [], k, v => [(k, v)]
  | (j, u) :: rest, k, v =>
    if k < j then (k, v) :: (j, u) :: rest
    else if k = j then (k, v) :: rest
    else (j, u) :: mapInsert rest k v

/-- A map without the entry of one key. -/
def mapErase {κ α : Type} [LinearOrder κ] : List (κ × α) → κ → List (κ × α)
  | [], _ => []
  | (j, u) :: rest, k => if j = k then rest else (j, u) :: mapErase rest k

/-- The keys rise strictly, so that equal maps are equal lists. -/
def mapSorted {κ α : Type} [LinearOrder κ] : List (κ × α) → Bool
  | [] => true
  | (j, _) :: rest => rest.all (fun e => decide (j < e.1)) && mapSorted rest

/-- Every key reads as `d` where the map has no entry. -/
def mapRead {κ α : Type} [LinearOrder κ] (d : α) (m : List (κ × α)) (k : κ) : α := (mapFind m k).getD d

/-- Write a key's value; writing the value an unlisted key reads as removes the entry. -/
def mapWrite {κ α : Type} [LinearOrder κ] [DecidableEq α] (d : α) (m : List (κ × α)) (k : κ) (v : α) : List (κ × α) :=
  if v = d then mapErase m k else mapInsert m k v

/-- Canonical form of a map read with a default: keys rise strictly and no entry holds the default. -/
def mapCanonical {κ α : Type} [LinearOrder κ] [DecidableEq α] (d : α) (m : List (κ × α)) : Bool :=
  mapSorted m && m.all (fun e => decide (e.2 ≠ d))

/-! The memory interface. -/

/-- What a byte that nothing has written reads as (log 7; DESIGN CHOICE: the spec gives VRAM no initial contents). -/
def unwrittenByte : Byte := 0

/-- `ReadByte(addr)` of the consumed memory interface (R11, R45). -/
def Memory.read (m : List Host.Cell) (addr : Nat) : Byte := mapRead unwrittenByte m addr

/-- The firmware's byte write (R48). -/
def Memory.write (m : List Host.Cell) (addr : Nat) (v : Byte) : List Host.Cell := mapWrite unwrittenByte m addr v

/-- The firmware's 16-bit write: the low byte at the lower address (R43). -/
def Memory.writeShort (m : List Host.Cell) (addr : Nat) (v : BitVec 16) : List Host.Cell :=
  Memory.write (Memory.write m addr (v.extractLsb' 0 8)) (addr + 1) (v.extractLsb' 8 8)

/-- Canonical form of memory: addresses rise strictly and no entry holds what an unlisted address reads as. -/
def Memory.wf (m : List Host.Cell) : Bool := mapCanonical unwrittenByte m

/-! Video memory. -/

/-- TOTAL_COLUMNS (R8; the literal is unaudited, log 23). -/
def totalColumns : Nat := 255

/-- The first of the two VRAM indices of canvas pixel `(x, y)`: `2*x + pixelPage * TOTAL_COLUMNS * 2` (R42, R87). -/
def baseIndex (pageOffset : BitVec 5) (x y : Nat) : Nat := 2 * x + (y / 8 + pageOffset.toNat) * totalColumns * 2

/-- `VramRead(i)`, as the `n`th VRAM read the block makes (R45): the byte of the memory interface below VRAM_BYTES, a free
value at or beyond it. -/
def vramRead (cfg : Config) (mem : List Host.Cell) (i n : Nat) : Byte :=
  if i < cfg.vramBytes then Memory.read mem (cfg.vramBase + i) else Config.freeVramByte n

/-- How many VRAM reads a Tick that decodes the bitplanes makes: two per canvas pixel (R47). -/
def readsPerTick : Nat := 2 * canvasW * canvasH

/-! The bus port and the gate. -/

/-- `PortRead(p)`: the bitmask of bus port `p` (R11); a port with no entry has every pin low (log 6). -/
def portRead (ports : List (Nat × Nat)) (p : Nat) : Nat := mapRead 0 ports p

/-- A bitmask with bit `k` at a level. -/
def withBit (mask k : Nat) (level : Bool) : Nat := if mask.testBit k = level then mask else mask ^^^ (1 <<< k)

/-- The bus ports with one pin at a level (R67, R131). -/
def portSetPin (ports : List (Nat × Nat)) (p k : Nat) (level : Bool) : List (Nat × Nat) :=
  mapWrite 0 ports p (withBit (portRead ports p) k level)

/-- `CanExecute()`: `((PortRead(CS_PORT) >> CS_PIN) & 1) == 0` (R69). The first test is the formula's own answer for a port
whose pins are all low; it lets the gate be evaluated at reset, where CS_PIN is an opaque constant (log 30). -/
def canExecute (s : State) : Bool :=
  portRead s.ports s.cfg.csPort == 0 || (portRead s.ports s.cfg.csPort >>> s.cfg.csPin) &&& 1 == 0

/-! Canvases. -/

/-- The canvas whose element at `(x, y)` is `f x y`. -/
def Canvas.ofFn {α : Type} (f : Fin canvasW → Fin canvasH → α) : Canvas α :=
  Vector.ofFn fun y => Vector.ofFn fun x => f x y

/-- The element at `(x, y)` (R51). -/
def Canvas.get {α : Type} (v : Canvas α) (x : Fin canvasW) (y : Fin canvasH) : α := (v[y])[x]

/-- The canvas with the element at `(x, y)` replaced. -/
def Canvas.put {α : Type} (v : Canvas α) (x : Fin canvasW) (y : Fin canvasH) (a : α) : Canvas α :=
  Canvas.ofFn fun x' y' => if x' = x ∧ y' = y then a else Canvas.get v x' y'

/-- The flat array handed over to observers: element `(x, y)` at position `y*96 + x` (R51, D28). -/
def Canvas.flat {α : Type} (v : Canvas α) : List α := (v.toList.map Vector.toList).flatten

/-- The canvas pixel at integer coordinates, none outside `0..95 × 0..63` (R108). -/
def canvasPixel (cx cy : Int) : Option (Fin canvasW × Fin canvasH) :=
  if h : (0 ≤ cx ∧ cx.toNat < canvasW) ∧ (0 ≤ cy ∧ cy.toNat < canvasH) then
    some (⟨cx.toNat, h.1.2⟩, ⟨cy.toNat, h.2.2⟩)
  else none

/-! Outputs. -/

/-- `emit E(args)` (R10). -/
def State.emit (s : State) (o : Output) : State := { s with outputs := s.outputs ++ [o] }

end Sys2Proof.Machine
end

