-- ==== Sys2Proof/Machine/Animation.lean ====
section
/-!
DEFINITION. The Animation Synchronizer (R96, R98).
-/

namespace Sys2Proof.Machine

/-- The synchronizer after a content hash: the first is stored without a toggle, a different one toggles and is stored, an
equal one changes nothing (R98). -/
def animAfter (a : Anim) (h : BitVec 32) : Anim :=
  match a.lastHash with
  | none => { a with lastHash := some h }
  | some last => if h ≠ last then { lastHash := some h, currentFrame := 1 - a.currentFrame } else a

/-- `NotifyWalkerDrawn(h)` (R98). -/
def notifyWalkerDrawn (h : BitVec 32) (s : State) : State := { s with anim := animAfter s.anim h }

end Sys2Proof.Machine
end

