-- ==== Sys2Proof/Machine/Catalog.lean ====
section
/-!
DEFINITION. The sprite catalog (R100) and the draw-command queue (R102).
-/

namespace Sys2Proof.Machine

/-- `SetColorSprite(id, pixels, width, height)`: a null buffer is a no-op, any other creates or replaces the entry wholesale,
with no check of the length (R100). -/
def setColorSprite (id : String) (pixels : Option (List Argb)) (width height : Nat) (s : State) : State :=
  match pixels with
  | none => s
  | some ps => { s with catalog := mapInsert s.catalog id { pixels := ps, width := width, height := height } }

/-- `QueueDraw(cmd)`: append at the tail (R102). -/
def queueDraw (cmd : DrawCommand) (s : State) : State := { s with queue := s.queue ++ [cmd] }

end Sys2Proof.Machine
end

