-- ==== Sys2Proof/Machine/Operands.lean ====
section
/-!
DEFINITION. Operand assembly: how a command's field becomes register contents (R60). No operand is sign-extended.
-/

namespace Sys2Proof.Machine

/-- COL.LO: `(column & 0xF0) | n` (R60, R73). -/
def columnWithLow (column : BitVec 8) (n : BitVec 4) : BitVec 8 := (column &&& 0xF0) ||| n.zeroExtend 8

/-- COL.HI: `(n << 4) | (column & 0x0F)`, so that `column[7]` becomes 0 (R60, R74; D3, log 4). -/
def columnWithHigh (column : BitVec 8) (n : BitVec 3) : BitVec 8 := (n.zeroExtend 8 <<< 4) ||| (column &&& 0x0F)

/-- PGOFS.ARG: `b / 8`, that is `b[7:3]` (R60, R81). -/
def pageOffsetOf (v : Byte) : BitVec 5 := (v / 8).truncate 5

end Sys2Proof.Machine
end

