-- ==== Sys2Proof/Machine/Flags.lean ====
section
/-!
DEFINITION. Flags: the two bus status flags that every delivered byte sets (R71), and `S.powerSave`, the only flag in the
block's own state (R19).
-/

namespace Sys2Proof.Machine

/-- `emit SetTxFlags()`, "which sets both flags to 1 on the bus peer" (R71). -/
def State.setTxFlags (s : State) : State :=
  { s.emit .setTxFlags with busFlags := { transmitBufferEmpty := true, transmitComplete := true } }

/-- The end of every `Transmit` (R72): the command's effect `s` stands, and the bus flags are set. -/
def endTransmit (s : State) : Host.Outcome State Fault Refusal := .next s.setTxFlags

/-- `S.powerSave <- on`; the protocol state stays as it is (R78, R79). -/
def State.setPowerSave (s : State) (on : Bool) : State := { s with powerSave := on }

end Sys2Proof.Machine
end

