-- ==== Sys2Proof/Machine/Commands.lean ====
section
/-!
DEFINITION. The meanings of the commands read in `Waiting` (R73 to R79, R82).
-/

namespace Sys2Proof.Machine

/-- COL.LO n (R73). -/
def execColLo (n : BitVec 4) (s : State) : Host.Outcome State Fault Refusal :=
  endTransmit { s with column := columnWithLow s.column n, subOffset := 0 }

/-- COL.HI n (R74). -/
def execColHi (n : BitVec 3) (s : State) : Host.Outcome State Fault Refusal :=
  endTransmit { s with column := columnWithHigh s.column n, subOffset := 0 }

/-- PGOFS.PFX k: "the four prefix values behave alike" (R75). -/
def execPgofsPfx (_k : BitVec 2) (s : State) : Host.Outcome State Fault Refusal :=
  endTransmit { s with protocolState := .awaitingPageOffset }

/-- CONTRAST.PFX (R76). -/
def execContrastPfx (s : State) : Host.Outcome State Fault Refusal :=
  endTransmit { s with protocolState := .awaitingContrast }

/-- PAGE n; `S.subOffset` is not reset (R77). -/
def execPage (n : BitVec 4) (s : State) : Host.Outcome State Fault Refusal :=
  endTransmit { s with pageSelect := n }

/-- PSAVE.ON (R78). -/
def execPsaveOn (s : State) : Host.Outcome State Fault Refusal :=
  endTransmit (s.setPowerSave true)

/-- PSAVE.OFF (R79). -/
def execPsaveOff (s : State) : Host.Outcome State Fault Refusal :=
  endTransmit (s.setPowerSave false)

/-- IGN b: no field of `S` changes; the bus flags are still set (R82). -/
def execIgn (_b : Byte) (s : State) : Host.Outcome State Fault Refusal :=
  endTransmit s

end Sys2Proof.Machine
end

