-- ==== Sys2Proof/Machine/Parameters.lean ====
section
/-!
DEFINITION. The meanings of the parameter bytes (R80, R81).
-/

namespace Sys2Proof.Machine

/-- CONTRAST.ARG v (R80). -/
def execContrastArg (v : Byte) (s : State) : Host.Outcome State Fault Refusal :=
  endTransmit { s with contrast := v, protocolState := .waiting }

/-- PGOFS.ARG v (R81). -/
def execPgofsArg (v : Byte) (s : State) : Host.Outcome State Fault Refusal :=
  endTransmit { s with pageOffset := pageOffsetOf v, protocolState := .waiting }

end Sys2Proof.Machine
end

