-- ==== Sys2Proof/Machine/Dispatch.lean ====
section
/-!
DEFINITION. One arm per constructor of `Instr` (R72).
-/

namespace Sys2Proof.Machine

def exec (i : Instr) (s : State) : Host.Outcome State Fault Refusal :=
  match i with
  | .colLo n => Sys2Proof.Machine.execColLo n s
  | .colHi n => Sys2Proof.Machine.execColHi n s
  | .pgofsPfx k => Sys2Proof.Machine.execPgofsPfx k s
  | .contrastPfx => Sys2Proof.Machine.execContrastPfx s
  | .page n => Sys2Proof.Machine.execPage n s
  | .psaveOn => Sys2Proof.Machine.execPsaveOn s
  | .psaveOff => Sys2Proof.Machine.execPsaveOff s
  | .contrastArg v => Sys2Proof.Machine.execContrastArg v s
  | .pgofsArg v => Sys2Proof.Machine.execPgofsArg v s
  | .ign b => Sys2Proof.Machine.execIgn b s

end Sys2Proof.Machine
end

