-- ==== Sys2Proof/Machine/Bitplane.lean ====
section
/-!
DEFINITION. The bitplane palette decoder: the base pass of a Tick (R86 to R91).
-/

namespace Sys2Proof.Machine

/-- `PaletteColor(i)`: the 24-bit value `0x00RRGGBB` of entry `i` (R29). -/
def paletteColor (cfg : Config) (i : BitVec 2) : Argb := (cfg.palette[i.toNat]'i.isLt).zeroExtend 32

/-- `0xFF000000 | PaletteColor(i)` (R90). -/
def opaqueColor (cfg : Config) (i : BitVec 2) : Argb := 0xFF000000 ||| paletteColor cfg i

/-- `(bit0 << 1) | bit1`, where `bit0` is bit `k` of the byte at the lower index and `bit1` of the one above it (R88). -/
def combinePlanes (hiByte loByte : Byte) (k : Nat) : BitVec 2 :=
  BitVec.ofBool (hiByte.getLsbD k) ++ BitVec.ofBool (loByte.getLsbD k)

/-- Which of its Tick's VRAM reads the first read of pixel `(x, y)` is counted as; the order of the reads "is not observable,
and the source gives none" (R47), and the number only tells the reads' free values apart (log 8). -/
def readNumber (x y : Nat) : Nat := 2 * (y * canvasW + x)

/-- The palette index of canvas pixel `(x, y)` (R87, R88). -/
def paletteIndex (s : State) (x y : Nat) : BitVec 2 :=
  let base := baseIndex s.pageOffset x y
  let hiByte := vramRead s.cfg s.mem base (s.vramReads + readNumber x y)
  let loByte := vramRead s.cfg s.mem (base + 1) (s.vramReads + readNumber x y + 1)
  combinePlanes hiByte loByte (y % 8)

/-- The palette-index buffer of the base pass: the decode (R87 to R89), or index 0 everywhere in power save (R91). -/
def baseIndices (s : State) : Canvas (BitVec 2) :=
  Canvas.ofFn fun x y => if s.powerSave then 0 else paletteIndex s x y

/-- The colour buffer of the base pass: the opaque colour of each index of the index buffer (R90, R91). -/
def baseColors (cfg : Config) (idx : Canvas (BitVec 2)) : Canvas Argb :=
  Canvas.ofFn fun x y => opaqueColor cfg (Canvas.get idx x y)

/-- The VRAM indices the base pass reads, in the order in which `readNumber` counts the reads (R33, R47, R49): two per canvas pixel, none in
power save. The memory interface is asked for VRAM_BASE plus each. -/
def vramIndicesRead (s : State) : List Nat :=
  if s.powerSave then []
  else (List.range canvasH).flatMap fun y => (List.range canvasW).flatMap fun x =>
    [baseIndex s.pageOffset x y, baseIndex s.pageOffset x y + 1]

/-- How many VRAM reads the base pass makes (R47): none in power save. -/
def basePassReads (s : State) : Nat := if s.powerSave then 0 else readsPerTick

end Sys2Proof.Machine
end

