-- ==== Sys2Proof/Machine/Compositor.lean ====
section
/-!
DEFINITION. The sprite compositor: the overlay pass of a Tick (R104 to R117). `paintCommand` is R105's loop body over one command,
computed pixel by canvas pixel; `paintCommandLoop` is the same body as R105 writes it, a double loop over the local
pixels of the command's rectangle (log 20).
-/

namespace Sys2Proof.Machine

/-- `SpriteLookup(id)` (R104). -/
def spriteLookup (catalog : List (String × Sprite)) (id : String) : Option Sprite := mapFind catalog id

/-- A sprite is empty when `len(pixels) == 0`, `width == 0` or `height == 0` (R104; D15, log 15). -/
def Sprite.isEmpty (sp : Sprite) : Bool := sp.pixels.length == 0 || sp.width == 0 || sp.height == 0

/-- A command names the walker by exact equality with WALKER_ID (R97). -/
def isWalker (cfg : Config) (cmd : DrawCommand) : Bool := cmd.spriteId == cfg.walkerId

/-- 2 for the walker, else 1 (R106). -/
def frameCount (walker : Bool) : Nat := if walker then 2 else 1

/-- `sp.height / frameCount`, truncating (R107). -/
def frameHeight (sp : Sprite) (walker : Bool) : Nat := sp.height / frameCount walker

/-- The effective frame index (R111). -/
def effectiveFrame (anim : Anim) (cmd : DrawCommand) (walker : Bool) : Nat :=
  if walker then anim.currentFrame.val else cmd.explicitFrameIndex

/-- `InBounds(sp, row, c)` (R113). -/
def inBounds (bounds : SpriteBounds) (sp : Sprite) (row c : Nat) : Bool :=
  match bounds with
  | .rect => decide (c < sp.width) && decide (row < sp.height) && decide (row * sp.width + c < sp.pixels.length)
  | .linear => decide (row * sp.width + c < sp.pixels.length)

/-- The sprite pixel of local `(localX, localY)`, none where the bounds check fails (R112, R113). -/
def spritePixel (cfg : Config) (anim : Anim) (cmd : DrawCommand) (sp : Sprite) (localX localY : Nat) : Option Argb :=
  let walker := isWalker cfg cmd
  let row := effectiveFrame anim cmd walker * frameHeight sp walker + localY
  if inBounds cfg.spriteBounds sp row localX then sp.pixels[row * sp.width + localX]? else none

/-- The alpha channel `p[31:24]` (R114). -/
def alphaOf (p : Argb) : BitVec 8 := p.extractLsb' 24 8

/-- `Paint(p)` (R105, R116). -/
def paint (cfg : Config) (p : Argb) : Argb := if cfg.forceOpaque then p ||| 0xFF000000 else p

/-- What sprite pixel `p` writes to its destination, none for no write (R115 for the walker, R116 for the others). -/
def pixelWrite (cfg : Config) (walker : Bool) (p : Argb) : Option Argb :=
  if 0 < alphaOf p then some (paint cfg p)
  else if walker then some (opaqueColor cfg 0)
  else none

/-- What local pixel `(localX, localY)` of a command writes to its destination, none for a skip. -/
def localWrite (cfg : Config) (anim : Anim) (cmd : DrawCommand) (sp : Sprite) (localX localY : Nat) : Option Argb :=
  (spritePixel cfg anim cmd sp localX localY).bind (pixelWrite cfg (isWalker cfg cmd))

/-- The sprite a command paints from, none where the command is skipped whole (R104). -/
def commandSprite (catalog : List (String × Sprite)) (cmd : DrawCommand) : Option Sprite :=
  (spriteLookup catalog cmd.spriteId).filter fun sp => !sp.isEmpty

/-- The local pixel of a command that lands on canvas pixel `(x, y)`: `(destX + localX, destY + localY) = (x, y)` inside the
command's rectangle, unscaled and unshifted by clipping (R108 to R110). -/
def localPixel (cmd : DrawCommand) (x y : Nat) : Option (Nat × Nat) :=
  let localX : Int := x - cmd.destX
  let localY : Int := y - cmd.destY
  if 0 ≤ localX ∧ localX < cmd.destWidth ∧ 0 ≤ localY ∧ localY < cmd.destHeight then
    some (localX.toNat, localY.toNat)
  else none

/-- What a command writes to canvas pixel `(x, y)`, none for nothing. -/
def commandWrite (cfg : Config) (anim : Anim) (catalog : List (String × Sprite)) (cmd : DrawCommand) (x y : Nat) :
    Option Argb :=
  (commandSprite catalog cmd).bind fun sp =>
    (localPixel cmd x y).bind fun l => localWrite cfg anim cmd sp l.1 l.2

/-- One command painted into the colour buffer (R105), canvas pixel by canvas pixel. -/
def paintCommand (cfg : Config) (anim : Anim) (catalog : List (String × Sprite)) (col : Canvas Argb)
    (cmd : DrawCommand) : Canvas Argb :=
  Canvas.ofFn fun x y => (commandWrite cfg anim catalog cmd x y).getD (Canvas.get col x y)

/-- `Composite(col, queue)`: the commands front to back (R103, R105). -/
def composite (cfg : Config) (anim : Anim) (catalog : List (String × Sprite)) (col : Canvas Argb)
    (queue : List DrawCommand) : Canvas Argb :=
  queue.foldl (paintCommand cfg anim catalog) col

/-- One turn of R105's inner loop: the local pixel's write, unless its canvas position is off the canvas (R108). -/
def paintLocal (cfg : Config) (anim : Anim) (cmd : DrawCommand) (sp : Sprite) (localY : Nat) (col : Canvas Argb)
    (localX : Nat) : Canvas Argb :=
  match canvasPixel (cmd.destX + localX) (cmd.destY + localY) with
  | none => col
  | some (x, y) =>
    match localWrite cfg anim cmd sp localX localY with
    | none => col
    | some v => Canvas.put col x y v

/-- One command painted as R105 writes it: `for localY … for localX …` over the command's rectangle. -/
def paintCommandLoop (cfg : Config) (anim : Anim) (catalog : List (String × Sprite)) (col : Canvas Argb)
    (cmd : DrawCommand) : Canvas Argb :=
  match commandSprite catalog cmd with
  | none => col
  | some sp =>
    (List.range cmd.destHeight).foldl
      (fun rows localY => (List.range cmd.destWidth).foldl (paintLocal cfg anim cmd sp localY) rows) col

end Sys2Proof.Machine
end

