-- ==== Sys2Proof/Machine/Render.lean ====
section
/-!
DEFINITION. The render operation (R85) and its publication (R94).
-/

namespace Sys2Proof.Machine

/-- The colour buffer a Tick publishes over the index buffer `idx`: the base pass, composited unless power save is on and
COMPOSITE_WHILE_POWERSAVE is off (R85). -/
def frameColors (s : State) (idx : Canvas (BitVec 2)) : Canvas Argb :=
  if !s.powerSave || s.cfg.compositeWhilePowerSave then
    composite s.cfg s.anim s.catalog (baseColors s.cfg idx) s.queue
  else baseColors s.cfg idx

/-- `emit FramePublished(idx, col)`, storing the same pair (R94). -/
def State.publish (s : State) (idx : Canvas (BitVec 2)) (col : Canvas Argb) : State :=
  { s.emit (.framePublished idx col) with indexOut := some idx, colorOut := some col }

/-- `Tick()`: base pass, compositing, queue clear, publish (R85, R118). -/
def tick (s : State) : State :=
  let idx := baseIndices s
  State.publish { s with queue := [], vramReads := s.vramReads + basePassReads s } idx (frameColors s idx)

end Sys2Proof.Machine
end

