-- ==== Sys2Proof/Machine/Interface.lean ====
section
/-!
DEFINITION. The operations of the interface (R32, R67): what the block does for each thing its environment can do to it (R131).
-/

namespace Sys2Proof.Machine

/-- Run the command a decode word selects; "a model meeting" the state code 0b11 "refuses" (R58, D33). -/
def runWord (w : DecodeWord) (s : State) : Host.Outcome State Fault Refusal :=
  match decodeWord w with
  | some i => exec i s
  | none => .refused .reservedStateCode

/-- `Transmit(b)`: the command chosen by `S.protocolState` and `b` (R72). -/
def transmit (b : Byte) (s : State) : Host.Outcome State Fault Refusal :=
  runWord (decodeWordOf s.protocolState b) s

/-- Several `Transmit`s, one after the other (R64). -/
def transmitBytes : List Byte → State → Host.Outcome State Fault Refusal
  | [], s => .next s
  | b :: rest, s =>
    match transmit b s with
    | .next t => transmitBytes rest t
    | .fault r => .fault r
    | .refused r => .refused r

/-- A byte the processor writes to the bus: delivered while the gate is open, and no step of the block otherwise (R70; log 9). -/
def offerByte (b : Byte) (s : State) : Host.Outcome State Fault Refusal :=
  if canExecute s then transmit b s else .next s

/-- One thing the environment does to the block. -/
def runInput (i : Input) (s : State) : Host.Outcome State Fault Refusal :=
  match i with
  | .offerByte b => offerByte b s
  | .tick => .next (tick s)
  | .notifyWalkerDrawn h => .next (notifyWalkerDrawn h s)
  | .setColorSprite id pixels width height => .next (setColorSprite id pixels width height s)
  | .queueDraw cmd => .next (queueDraw cmd s)
  | .setPin port pin level => .next { s with ports := portSetPin s.ports port pin level }
  | .writeByte addr v => .next { s with mem := Memory.write s.mem addr v }
  | .writeShort addr v => .next { s with mem := Memory.writeShort s.mem addr v }
  | .peerSetsFlags f => .next { s with busFlags := f }

/-- The ports with the chip-select pin low, whatever it was; nothing changes if the gate is open already. -/
def openGate (s : State) : List (Nat × Nat) :=
  if canExecute s then s.ports else portSetPin s.ports s.cfg.csPort s.cfg.csPin false

/-- The protocol state a table word's code names; the state as it is for 0b11, which names none (R58; log 18). -/
def protocolStateForWord (s : State) (w : DecodeWord) : ProtocolState :=
  (stateOfCode (codeField w)).getD s.protocolState

end Sys2Proof.Machine
end

