-- ==== Sys2Proof/Machine/Step.lean ====
section
/-!
DEFINITION. One step: the environment's next operation runs to completion, alone (R7, R52). The block has no program counter and
fetches nothing (R14); the byte it decodes is the one the bus delivers.
-/

namespace Sys2Proof.Machine

/-- The environment's next operation; with none waiting, nothing happens: the block "moves only when" an operation is invoked
(R83, R138; log 10). -/
def step (s : State) : Host.Outcome State Fault Refusal :=
  match s.inputs with
  | [] => .next s
  | i :: rest => runInput i { s with inputs := rest }

/-- The state in which the next step delivers the byte of a table word in the protocol state of its code: the byte waits at the
head of the inputs, the chip-select pin is low (log 10, 18). -/
def State.withFetchWord (s : State) (nbits w : Nat) : State :=
  { s with
    protocolState := protocolStateForWord s (BitVec.ofNat 10 (w % 2 ^ nbits))
    ports := openGate s
    inputs := .offerByte (byteField (BitVec.ofNat 10 (w % 2 ^ nbits))) :: s.inputs }

end Sys2Proof.Machine
end

