-- ==== Sys2Proof/Safety.lean ====
section
/-!
DEFINITION. What claims are stated in: the canonical form of a state's maps, agreement of the stored buffers with the last
published frame, the reachable column values, the part of a state that outputs depend on, and a run of commands.
-/

namespace Sys2Proof.Machine

/-- The state's maps are in canonical form: catalog and ports in rising order, memory as `Memory.wf` says. -/
def State.canonical (s : State) : Bool :=
  mapSorted s.catalog && mapCanonical 0 s.ports && Memory.wf s.mem

/-- The last frame among a list of outputs, oldest first. -/
def lastFrame : List Output → Option (Canvas (BitVec 2) × Canvas Argb)
  | [] => none
  | o :: rest =>
    match lastFrame rest, o with
    | some f, _ => some f
    | none, .framePublished idx col => some (idx, col)
    | none, .setTxFlags => none

/-- The stored buffers are those of the last frame published, none before the first (R28, R94). -/
def State.buffersAreLastFrame (s : State) : Prop :=
  s.indexOut = (lastFrame s.outputs).map Prod.fst ∧ s.colorOut = (lastFrame s.outputs).map Prod.snd

/-- "the reachable values are 0..127" (R15). -/
def State.columnReachable (s : State) : Prop := s.column.toNat < 128

/-- The state without the registers that "affect no output" (R15, R16, R18, R21). -/
def State.withoutUnread (s : State) : State := { s with column := 0, pageSelect := 0, contrast := 0, subOffset := 0 }

/-- A draw command without its provenance key (R119). -/
def DrawCommand.withoutKey (cmd : DrawCommand) : DrawCommand := { cmd with provenanceKey := 0 }

/-- The gate formula of R69: `((PortRead(CS_PORT) >> CS_PIN) & 1) == 0`. -/
def State.csPinLow (s : State) : Prop := (portRead s.ports s.cfg.csPort >>> s.cfg.csPin) &&& 1 = 0

/-- Every VRAM index the render pass forms for canvas pixel `(x, y)` is below VRAM_BYTES (R45, R87). -/
def State.pixelBacked (s : State) (x : Fin canvasW) (y : Fin canvasH) : Prop :=
  baseIndex s.pageOffset x y + 1 < s.cfg.vramBytes

/-- Commands run one after the other. -/
def execAll : List Instr → State → Host.Outcome State Fault Refusal
  | [], s => .next s
  | i :: rest, s =>
    match exec i s with
    | .next t => execAll rest t
    | .fault r => .fault r
    | .refused r => .refused r

end Sys2Proof.Machine
end

