-- ==== Sys2Proof/Certificates/Slice0/Obligations.lean ====
section
/-!
DEFINITION. The statements for the provers. Each docstring names the rules of spec/ it formalises; where a clause rests on a decision
the spec marks as its own, or on a choice of the model, the docstring says so.
-/

open Sys2Proof Sys2Proof.Machine

/-! ## Encoding -/

/-- R58 to R62, R65: decoding the encoding of a well-formed command gives it back, every operand at every value. -/
def Obligations.DecodeOfEncodeIsTheCommand : Prop :=
  ∀ i : Instr, i.wellFormed = true → decodeWord (encode i) = some i

/-- R61: the other direction: what the decoder reads from a word is well formed and encodes to that word, so no bit of a word is
dropped. -/
def Obligations.EncodeOfDecodeIsTheWord : Prop :=
  ∀ (w : DecodeWord) (i : Instr), decodeWord w = some i → i.wellFormed = true ∧ encode i = w

/-- R58, R61, R62, R68: every word the decoder reads selects exactly one row of the opcode table, a row of the command's mnemonic. -/
def Obligations.DecodedWordSelectsOneTableRow : Prop :=
  ∀ (w : DecodeWord) (i : Instr), decodeWord w = some i →
    ∃ r, opcodeRows.filter (fun r => r.selects w) = [r] ∧ r.mnemonic = i.mnemonic

/-- R58, D33 (the spec's own decision; log 18): a decode word is refused exactly when its state code is 0b11; any other runs to a next
state. -/
def Obligations.OnlyReservedStateCodeIsRefused : Prop :=
  ∀ (w : DecodeWord) (s : State),
    (runWord w s = .refused .reservedStateCode ↔ codeField w = 0b11) ∧
    (codeField w ≠ 0b11 → ∃ t, runWord w s = .next t)

/-- R64, R65: decoding the byte stream of a command list that R65 allows from a protocol state gives the list back. -/
def Obligations.StreamDecodesToItsCommands : Prop :=
  ∀ (p : ProtocolState) (is : List Instr), streamWellFormed p is = true → decodeStream p (is.map encodeByte) = is

/-- R64, R61: any byte stream, read from any protocol state, decodes to a well-formed command stream of that same state whose bytes
are the stream. -/
def Obligations.EveryStreamIsACommandStream : Prop :=
  ∀ (p : ProtocolState) (bs : List Byte),
    streamWellFormed p (decodeStream p bs) = true ∧ (decodeStream p bs).map encodeByte = bs

/-- Words written out from R59 and R61: 0b00_0000_0101 is COL.LO 5, 0b00_0001_0100 COL.HI 4, 0b00_0100_0010 PGOFS.PFX 2,
0b00_1011_0111 PAGE 7, 0b01_1010_1001 CONTRAST.ARG 0xA9, 0b10_1111_1111 PGOFS.ARG 0xFF, 0b00_0001_1000 IGN 0x18. -/
def Obligations.WordsOfTheEncodingTableDecode : Prop :=
  decodeWord 0b0000000101 = some (.colLo 5) ∧ decodeWord 0b0000010100 = some (.colHi 4) ∧
  decodeWord 0b0001000010 = some (.pgofsPfx 2) ∧ decodeWord 0b0010110111 = some (.page 7) ∧
  decodeWord 0b0110101001 = some (.contrastArg 0xA9) ∧ decodeWord 0b1011111111 = some (.pgofsArg 0xFF) ∧
  decodeWord 0b0000011000 = some (.ign 0x18) ∧ decodeWord 0b0010000001 = some .contrastPfx ∧
  decodeWord 0b0010101001 = some .psaveOn ∧ decodeWord 0b0011100001 = some .psaveOff

/-! ## The commands -/

/-- R73. Bytes 0x00 to 0x0F in Waiting run COL.LO: the low nibble of `column` becomes `n`, the high nibble is kept, `subOffset`
becomes 0, the bus flags are set, and nothing else changes. -/
def Obligations.ColLoWritesLowColumnNibble : Prop :=
  ∀ (n : BitVec 4) (s : State),
    (s.protocolState = .waiting → ∀ b : Byte, b.toNat = n.toNat → transmit b s = exec (.colLo n) s) ∧
    ∃ t, exec (.colLo n) s = .next t ∧
      t.column.toNat = s.column.toNat / 16 * 16 + n.toNat ∧
      t = { s with column := t.column, subOffset := 0, busFlags := ⟨true, true⟩, outputs := s.outputs ++ [.setTxFlags] }

/-- R74; that `column[7]` becomes 0 is the spec's decision D3 (log 4). Bytes 0x10 to 0x17 in Waiting run COL.HI: `column[6:4]` becomes
`n`, `column[7]` becomes 0, the low nibble is kept, `subOffset` becomes 0, the bus flags are set, and nothing else changes. -/
def Obligations.ColHiWritesHighColumnBits : Prop :=
  ∀ (n : BitVec 3) (s : State),
    (s.protocolState = .waiting → ∀ b : Byte, b.toNat = 0x10 + n.toNat → transmit b s = exec (.colHi n) s) ∧
    ∃ t, exec (.colHi n) s = .next t ∧
      t.column.toNat = n.toNat * 16 + s.column.toNat % 16 ∧
      t = { s with column := t.column, subOffset := 0, busFlags := ⟨true, true⟩, outputs := s.outputs ++ [.setTxFlags] }

/-- R75. Bytes 0x40 to 0x43 in Waiting run PGOFS.PFX: whatever `k` is, the protocol state becomes AwaitingPageOffset, the bus flags are
set, and nothing else changes. -/
def Obligations.PgofsPfxAwaitsPageOffset : Prop :=
  ∀ (k : BitVec 2) (s : State),
    (s.protocolState = .waiting → ∀ b : Byte, b.toNat = 0x40 + k.toNat → transmit b s = exec (.pgofsPfx k) s) ∧
    exec (.pgofsPfx k) s =
      .next { s with
        protocolState := .awaitingPageOffset, busFlags := ⟨true, true⟩, outputs := s.outputs ++ [.setTxFlags] }

/-- R76. Byte 0x81 in Waiting runs CONTRAST.PFX: the protocol state becomes AwaitingContrast, the bus flags are set, and nothing else
changes. -/
def Obligations.ContrastPfxAwaitsContrast : Prop :=
  ∀ s : State,
    (s.protocolState = .waiting → transmit 0x81 s = exec .contrastPfx s) ∧
    exec .contrastPfx s =
      .next { s with
        protocolState := .awaitingContrast, busFlags := ⟨true, true⟩, outputs := s.outputs ++ [.setTxFlags] }

/-- R77. Bytes 0xB0 to 0xBF in Waiting run PAGE: `pageSelect` becomes `n`, the bus flags are set, and nothing else changes
(`subOffset` is not reset); `pageSelect` has no effect on what a Tick emits, by the spec's decision D22 (R16; log 33). -/
def Obligations.PageWritesPageSelect : Prop :=
  ∀ (n : BitVec 4) (s : State),
    (s.protocolState = .waiting → ∀ b : Byte, b.toNat = 0xB0 + n.toNat → transmit b s = exec (.page n) s) ∧
    exec (.page n) s =
      .next { s with pageSelect := n, busFlags := ⟨true, true⟩, outputs := s.outputs ++ [.setTxFlags] } ∧
    ∀ t u, runInput .tick s = .next t → runInput .tick { s with pageSelect := n } = .next u → u.outputs = t.outputs

/-- R78 and R79. Bytes 0xA9 and 0xE1 in Waiting run PSAVE.ON and PSAVE.OFF: `powerSave` becomes true or false, the bus flags are set,
and nothing else changes. -/
def Obligations.PsaveCommandsWritePowerSave : Prop :=
  ∀ s : State,
    (s.protocolState = .waiting → transmit 0xA9 s = exec .psaveOn s ∧ transmit 0xE1 s = exec .psaveOff s) ∧
    exec .psaveOn s =
      .next { s with powerSave := true, busFlags := ⟨true, true⟩, outputs := s.outputs ++ [.setTxFlags] } ∧
    exec .psaveOff s =
      .next { s with powerSave := false, busFlags := ⟨true, true⟩, outputs := s.outputs ++ [.setTxFlags] }

/-- R80. In AwaitingContrast every byte runs CONTRAST.ARG: `contrast` becomes the byte, the protocol state Waiting, the bus flags are
set, and nothing else changes, so 0xA9 there leaves `powerSave` as it was; `contrast` has no effect on what a Tick emits, by the spec's
decision D22 (R18; log 33). -/
def Obligations.ContrastArgWritesContrast : Prop :=
  ∀ (v : Byte) (s : State),
    (s.protocolState = .awaitingContrast → transmit v s = exec (.contrastArg v) s) ∧
    exec (.contrastArg v) s =
      .next { s with
        contrast := v, protocolState := .waiting, busFlags := ⟨true, true⟩, outputs := s.outputs ++ [.setTxFlags] } ∧
    ∀ t u, runInput .tick s = .next t → runInput .tick { s with contrast := v } = .next u → u.outputs = t.outputs

/-- R81. In AwaitingPageOffset every byte runs PGOFS.ARG: `pageOffset` becomes the byte divided by 8, truncating, the protocol state
Waiting, the bus flags are set, and nothing else changes. -/
def Obligations.PgofsArgWritesPageOffset : Prop :=
  ∀ (v : Byte) (s : State),
    (s.protocolState = .awaitingPageOffset → transmit v s = exec (.pgofsArg v) s) ∧
    ∃ t, exec (.pgofsArg v) s = .next t ∧
      t.pageOffset.toNat = v.toNat / 8 ∧
      t = { s with
        pageOffset := t.pageOffset, protocolState := .waiting, busFlags := ⟨true, true⟩,
        outputs := s.outputs ++ [.setTxFlags] }

/-- R82. The 209 bytes of R61 marked IGN, read in Waiting, run IGN: the bus flags are set and nothing else changes. -/
def Obligations.IgnoredBytesChangeNothing : Prop :=
  ∀ (b : Byte) (s : State),
    (s.protocolState = .waiting →
      (0x18 ≤ b.toNat ∧ b.toNat ≤ 0x3F) ∨ (0x44 ≤ b.toNat ∧ b.toNat ≤ 0x80) ∨ (0x82 ≤ b.toNat ∧ b.toNat ≤ 0xA8) ∨
        (0xAA ≤ b.toNat ∧ b.toNat ≤ 0xAF) ∨ (0xC0 ≤ b.toNat ∧ b.toNat ≤ 0xE0) ∨ 0xE2 ≤ b.toNat →
      transmit b s = exec (.ign b) s) ∧
    exec (.ign b) s = .next { s with busFlags := ⟨true, true⟩, outputs := s.outputs ++ [.setTxFlags] }

/-- R83 (derived in the spec from R72 to R82). The transition table of the protocol state, for every byte and state; and of any two
bytes in a row one leaves Waiting. -/
def Obligations.ProtocolStateFollowsTransitionTable : Prop :=
  (∀ (b : Byte) (s : State), ∃ t, transmit b s = .next t ∧
    t.protocolState =
      if s.protocolState = .waiting ∧ 0x40 ≤ b.toNat ∧ b.toNat ≤ 0x43 then .awaitingPageOffset
      else if s.protocolState = .waiting ∧ b.toNat = 0x81 then .awaitingContrast
      else .waiting) ∧
  (∀ (b c : Byte) (s t u : State), transmit b s = .next t → transmit c t = .next u →
    t.protocolState = .waiting ∨ u.protocolState = .waiting)

/-- R83: "No other operation changes the state": a step changes the protocol state only by delivering a byte while the gate is open. -/
def Obligations.OnlyDeliveredBytesMoveProtocolState : Prop :=
  ∀ s t : State, step s = .next t → t.protocolState ≠ s.protocolState →
    s.csPinLow ∧ ∃ b rest, s.inputs = .offerByte b :: rest

/-- R71; that the flags live on the bus peer is the spec's decision D7 (log 11). Every transmitted byte, whatever the state, sets both
flags and emits SetTxFlags once; and no input but the peer's own write ever clears a flag that is set. -/
def Obligations.EveryByteSetsBothBusFlags : Prop :=
  (∀ (b : Byte) (s : State), ∃ t, transmit b s = .next t ∧ t.busFlags = ⟨true, true⟩ ∧
    t.outputs = s.outputs ++ [.setTxFlags]) ∧
  (∀ (i : Input) (s t : State), (∀ f, i ≠ .peerSetsFlags f) → runInput i s = .next t →
    (s.busFlags.transmitBufferEmpty = true → t.busFlags.transmitBufferEmpty = true) ∧
    (s.busFlags.transmitComplete = true → t.busFlags.transmitComplete = true))

/-- R84 (derived in the spec). A Transmit neither reads nor writes the catalog, the queue, the animation state or the output buffers:
with any other values there it does the same and leaves them as they are. -/
def Obligations.TransmitNeitherReadsNorWritesTheCompositor : Prop :=
  ∀ (b : Byte) (s t : State) (catalog : List (String × Sprite)) (queue : List DrawCommand) (anim : Anim)
    (idx : Option (Canvas (BitVec 2))) (col : Option (Canvas Argb)),
    transmit b s = .next t →
      transmit b { s with catalog := catalog, queue := queue, anim := anim, indexOut := idx, colorOut := col } =
        .next { t with catalog := catalog, queue := queue, anim := anim, indexOut := idx, colorOut := col }

/-- R66 (derived in the spec). From Waiting, the bytes of `COL c` set `column` to `c` in either order of the two bytes, those of
`CONTRAST v` set `contrast` to `v`, those of `PGOFS p` set `pageOffset` to `p`; all end in Waiting. That `column` is exactly `c` even
where `column[7]` was set rests on COL.HI clearing that bit, the spec's decision D3 (log 4). -/
def Obligations.PseudoInstructionsSetTheirRegister : Prop :=
  ∀ s : State, s.protocolState = .waiting →
    (∀ c : BitVec 7,
      (∃ t, transmitBytes (Pseudo.col c).bytes s = .next t ∧ t.column.toNat = c.toNat ∧ t.protocolState = .waiting) ∧
      (∃ t, transmitBytes (Pseudo.col c).bytes.reverse s = .next t ∧ t.column.toNat = c.toNat ∧
        t.protocolState = .waiting)) ∧
    (∀ v : Byte, ∃ t, transmitBytes (Pseudo.contrast v).bytes s = .next t ∧ t.contrast = v ∧
      t.protocolState = .waiting) ∧
    (∀ p : BitVec 5, ∃ t, transmitBytes (Pseudo.pgofs p).bytes s = .next t ∧ t.pageOffset = p ∧
      t.protocolState = .waiting)

/-! ## The step -/

/-- A step runs the decoded command (R69, R70, R72): with a byte waiting, the chip-select pin low, and the byte decoding in the protocol
state to `i`, the step is `exec i` on the state whose input list has moved past the byte. The input list is the model's (log 10). -/
def Obligations.StepRunsTheDecodedCommand : Prop :=
  ∀ (s : State) (b : Byte) (rest : List Input) (i : Instr), s.inputs = .offerByte b :: rest → s.csPinLow →
    decodeWord (decodeWordOf s.protocolState b) = some i → step s = exec i { s with inputs := rest }

/-- R70: a byte offered while the chip-select pin is high is not delivered: the block takes no step for it. That the byte then leaves
the model's input list is the model's choice (log 9). -/
def Obligations.ByteBehindClosedGateIsNotDelivered : Prop :=
  ∀ (s : State) (b : Byte) (rest : List Input), s.inputs = .offerByte b :: rest → ¬ s.csPinLow →
    step s = .next { s with inputs := rest }

/-- R58, R64, R72 taken together: offered as bytes through an open gate, a command stream that R65 allows runs as its commands do, one
step each. -/
def Obligations.OfferedStreamRunsItsCommands : Prop :=
  ∀ (is : List Instr) (s : State), streamWellFormed s.protocolState is = true → s.csPinLow →
    s.inputs = is.map (fun i => .offerByte (encodeByte i)) →
      Host.Core.run Sys2Proof.core is.length s = execAll is { s with inputs := [] }

/-- R122: no operation stops: from every state, every number of steps answers a next state. -/
def Obligations.NoRunEverStops : Prop :=
  ∀ (k : Nat) (s : State), ∃ t, Host.Core.run Sys2Proof.core k s = .next t

/-- R31 (derived in the spec), row by row: what each operation may write; every other field stays as it was. Then the environment's own
inputs: a pin level (R67 `PIN`, R131) writes the ports, a firmware write (R43, R48) the memory, the peer's write (R22, R71) its flags.
Setting a pin gives it the level and leaves every other pin of every port, and the chip-select pin set so opens the gate exactly when the
level is low (R69). The bus flags, the VRAM read count, the inputs, the outputs and the canonical form of the ports are the model's (log 6,
8, 10, 11, 28); offering a byte is StepRunsTheDecodedCommand and ByteBehindClosedGateIsNotDelivered, what a firmware write stores is
MemoryWritesReadBack. -/
def Obligations.OperationsWriteOnlyTheirFields : Prop :=
  (∀ (b : Byte) (s t : State), transmit b s = .next t →
    t = { s with
      column := t.column, pageSelect := t.pageSelect, pageOffset := t.pageOffset, contrast := t.contrast,
      powerSave := t.powerSave, protocolState := t.protocolState, subOffset := t.subOffset,
      busFlags := t.busFlags, outputs := t.outputs }) ∧
  (∀ s : State, ∃ t, runInput .tick s = .next t ∧
    t = { s with
      queue := t.queue, indexOut := t.indexOut, colorOut := t.colorOut, vramReads := t.vramReads,
      outputs := t.outputs }) ∧
  (∀ (h : BitVec 32) (s : State), ∃ t, runInput (.notifyWalkerDrawn h) s = .next t ∧ t = { s with anim := t.anim }) ∧
  (∀ (id : String) (px : Option (List Argb)) (w h : Nat) (s : State), ∃ t,
    runInput (.setColorSprite id px w h) s = .next t ∧ t = { s with catalog := t.catalog }) ∧
  (∀ (cmd : DrawCommand) (s : State), ∃ t, runInput (.queueDraw cmd) s = .next t ∧ t = { s with queue := t.queue }) ∧
  (∀ (port pin : Nat) (level : Bool) (s : State), ∃ t, runInput (.setPin port pin level) s = .next t ∧
    t = { s with ports := t.ports } ∧
    (mapCanonical 0 s.ports = true →
      (∀ port' pin' : Nat, (portRead t.ports port').testBit pin' =
        if port' = port ∧ pin' = pin then level else (portRead s.ports port').testBit pin') ∧
      (port = s.cfg.csPort → pin = s.cfg.csPin → (t.csPinLow ↔ level = false)))) ∧
  (∀ (addr : Nat) (v : Byte) (s : State), ∃ t, runInput (.writeByte addr v) s = .next t ∧ t = { s with mem := t.mem }) ∧
  (∀ (addr : Nat) (v : BitVec 16) (s : State), ∃ t,
    runInput (.writeShort addr v) s = .next t ∧ t = { s with mem := t.mem }) ∧
  (∀ (f : BusFlags) (s : State), runInput (.peerSetsFlags f) s = .next { s with busFlags := f })

/-! ## Whole-machine rules and invariants -/

/-- R34, R136. Reset, for every choice of the parameters; then the machine's own reset, whose addressing registers are 0 by the spec's
decision D2 (log 2). The sub-byte offset 0 is D4 (log 5), the frame 0 is D14 (log 3), the empty catalog and queue D37 and D19, the absent
buffers D21 (log 34). -/
def Obligations.ResetLeavesTheRuledValues : Prop :=
  (∀ c : Config,
    (State.resetWith c).protocolState = .waiting ∧ (State.resetWith c).column = c.resetAddressing.column ∧
    (State.resetWith c).pageSelect = c.resetAddressing.pageSelect ∧
    (State.resetWith c).pageOffset = c.resetAddressing.pageOffset ∧
    (State.resetWith c).contrast = c.resetAddressing.contrast ∧
    (State.resetWith c).powerSave = c.resetAddressing.powerSave ∧ (State.resetWith c).subOffset = 0 ∧
    (State.resetWith c).anim = ⟨none, 0⟩ ∧ (State.resetWith c).catalog = [] ∧ (State.resetWith c).queue = [] ∧
    (State.resetWith c).indexOut = none ∧ (State.resetWith c).colorOut = none ∧ (State.resetWith c).cfg = c) ∧
  State.reset = State.resetWith Config.machine ∧ Config.machine.resetAddressing = ⟨0, 0, 0, 0, false⟩

/-- The reset state meets the three invariants below: its maps are in canonical form (the form is the model's choice, log 28), it holds no buffers and has published no frame (R28,
D21), and its column is in 0..127 (R15, with the reset default of D2, log 2). -/
def Obligations.ResetMeetsTheInvariants : Prop :=
  State.reset.canonical = true ∧ State.reset.buffersAreLastFrame ∧ State.reset.columnReachable

/-- Every step keeps the memory, the ports and the catalog in canonical form. The spec gives these as maps (R11, R24, R45); the canonical
form of their data is the model's choice (log 28). -/
def Obligations.StepKeepsCanonicalForm : Prop :=
  ∀ s t : State, s.canonical = true → step s = .next t → t.canonical = true

/-- R28, R94 (with D21, D28; log 34, 29): every step keeps the stored buffers those of the last frame published, none before the first. -/
def Obligations.StepKeepsBuffersTheLastFrame : Prop :=
  ∀ s t : State, s.buffersAreLastFrame → step s = .next t → t.buffersAreLastFrame

/-- R15 (derived in the spec; with D3, log 4): no step takes the column out of 0..127. -/
def Obligations.StepKeepsColumnReachable : Prop :=
  ∀ s t : State, s.columnReachable → step s = .next t → t.columnReachable

/-- R29, R30: the palette and every other parameter are configuration: no step writes them. -/
def Obligations.NoStepWritesTheParameters : Prop :=
  ∀ s t : State, step s = .next t → t.cfg = s.cfg

/-- R15, R16, R18, R21 (with the spec's decisions D22 and D4): `column`, `pageSelect`, `contrast` and `subOffset` have no effect on any
output or on any other field: two states that agree on everything else take steps to states that do. -/
def Obligations.UnreadRegistersAffectNoOutput : Prop :=
  ∀ s s' t t' : State, s.withoutUnread = s'.withoutUnread → step s = .next t → step s' = .next t' →
    t.withoutUnread = t'.withoutUnread

/-! ## Memory and VRAM -/

/-- R43 (derived in the spec), R45, R48: the firmware's write of a byte through the memory interface performs that write and changes no
other field; the byte reads back and no other byte changes. Its 16-bit write likewise stores `v[7:0]` at the address and `v[15:8]` above
it, and nothing else. That a 16-bit write is one input is the model's reading (log 31); the memory's form is its choice (log 28). -/
def Obligations.MemoryWritesReadBack : Prop :=
  ∀ (s : State) (a b : Nat), Memory.wf s.mem = true →
    (∀ v : Byte,
      runInput (.writeByte a v) s = .next { s with mem := Memory.write s.mem a v } ∧
      Memory.read (Memory.write s.mem a v) b = if b = a then v else Memory.read s.mem b) ∧
    (∀ v : BitVec 16,
      runInput (.writeShort a v) s = .next { s with mem := Memory.writeShort s.mem a v } ∧
      (Memory.read (Memory.writeShort s.mem a v) b).toNat =
        if b = a then v.toNat % 256 else if b = a + 1 then v.toNat / 256 else (Memory.read s.mem b).toNat)

/-- R87 to R89. Without power save, the published palette index of pixel `(x, y)` is bit `y mod 8` of the byte VRAM returns at baseIndex,
as its bit 1, over the same bit of the byte it returns at baseIndex + 1, where baseIndex is
`2*x + (y/8 + pageOffset)*510`. That `bit k` is counted from the least significant bit is the spec's decision D10 from general knowledge
(R10, K1; log 12, presumed). -/
def Obligations.TickDecodesTheBitplanes : Prop :=
  ∀ (s : State) (x : Fin canvasW) (y : Fin canvasH), s.powerSave = false →
    ∃ t idx hiRead loRead, runInput .tick s = .next t ∧ t.indexOut = some idx ∧
      (Canvas.get idx x y).toNat =
        2 * ((vramRead s.cfg s.mem (2 * x.val + (y.val / 8 + s.pageOffset.toNat) * 510) hiRead).toNat /
          2 ^ (y.val % 8) % 2) +
        (vramRead s.cfg s.mem (2 * x.val + (y.val / 8 + s.pageOffset.toNat) * 510 + 1) loRead).toNat /
          2 ^ (y.val % 8) % 2

/-- R45, I5 (the spec's decision D9). A VRAM read below VRAM_BYTES returns the byte of the memory interface at VRAM_BASE + index. Where both
indices of a pixel are at or beyond VRAM_BYTES, each bit of its published index comes from a free value of its own, whatever memory
holds (the numbering of the free values is the model's, log 8). -/
def Obligations.VramReadsAreMemoryOrDraws : Prop :=
  (∀ (cfg : Config) (mem : List Host.Cell) (i n : Nat), i < cfg.vramBytes →
    vramRead cfg mem i n = Memory.read mem (cfg.vramBase + i)) ∧
  (∀ (s : State) (x : Fin canvasW) (y : Fin canvasH) (mem : List Host.Cell), s.powerSave = false →
    s.cfg.vramBytes ≤ baseIndex s.pageOffset x y →
    ∃ t idx, runInput .tick { s with mem := mem } = .next t ∧ t.indexOut = some idx ∧
      (Canvas.get idx x y).toNat =
        2 * ((Config.freeVramByte (s.vramReads + 2 * (y.val * 96 + x.val))).toNat / 2 ^ (y.val % 8) % 2) +
        (Config.freeVramByte (s.vramReads + 2 * (y.val * 96 + x.val) + 1)).toNat / 2 ^ (y.val % 8) % 2)

/-- R47, R49 (derived in the spec): 12288 one-byte VRAM reads per Tick without power save, none with it, every index at most 19571, and no
memory is changed. The counter is the model's (log 8). -/
def Obligations.TickCountsItsVramReads : Prop :=
  ∀ s : State, ∃ t, runInput .tick s = .next t ∧
    t.vramReads = s.vramReads + (vramIndicesRead s).length ∧
    (vramIndicesRead s).length = (if s.powerSave then 0 else 12288) ∧ (∀ i ∈ vramIndicesRead s, i ≤ 19571) ∧ t.mem = s.mem

/-- R93 (derived in the spec). The page offset scrolls by whole pages: where a pixel is backed by VRAM, a page offset one larger shows at
row `y` what the smaller one shows at row `y + 8`. -/
def Obligations.PageOffsetScrollsByWholePages : Prop :=
  ∀ (s : State) (x : Fin canvasW) (y y' : Fin canvasH) (o o' : BitVec 5), s.powerSave = false →
    y'.val = y.val + 8 → o'.toNat = o.toNat + 1 → baseIndex o' x y + 1 < s.cfg.vramBytes →
    ∃ t t' idx idx', runInput .tick { s with pageOffset := o' } = .next t ∧ t.indexOut = some idx ∧
      runInput .tick { s with pageOffset := o } = .next t' ∧ t'.indexOut = some idx' ∧
      Canvas.get idx x y = Canvas.get idx' x y'

/-! ## The render pass -/

/-- R90. With an empty queue the published colour of every pixel is `0xFF000000 | PaletteColor(idx)`, so its alpha is 0xFF. -/
def Obligations.BaseColorIsTheOpaquePaletteColor : Prop :=
  ∀ (s : State) (x : Fin canvasW) (y : Fin canvasH), s.queue = [] →
    ∃ t idx col, runInput .tick s = .next t ∧ t.indexOut = some idx ∧ t.colorOut = some col ∧
      Canvas.get col x y =
        0xFF000000 ||| (s.cfg.palette[(Canvas.get idx x y).toNat]'(Canvas.get idx x y).isLt).zeroExtend 32 ∧
      (Canvas.get col x y).toNat / 2 ^ 24 = 0xFF

/-- R91. In power save a Tick makes no VRAM read, every index is 0 whatever VRAM and the page offset hold, the base colour of every pixel
(what is published with nothing queued) is the opaque colour 0, and the queue is still consumed. -/
def Obligations.PowerSaveBlanksTheCanvas : Prop :=
  ∀ (s : State) (x : Fin canvasW) (y : Fin canvasH), s.powerSave = true →
    ∃ t idx col, runInput .tick s = .next t ∧ t.indexOut = some idx ∧ t.colorOut = some col ∧
      t.vramReads = s.vramReads ∧ t.queue = [] ∧ Canvas.get idx x y = 0 ∧
      (s.queue = [] → Canvas.get col x y = 0xFF000000 ||| (s.cfg.palette[0]).zeroExtend 32)

/-- R85 (the guard on power save is the spec's decision D11, log 14). What a Tick publishes is the queue composited over what it would
publish with nothing queued, unless power save is on and COMPOSITE_WHILE_POWERSAVE is off. -/
def Obligations.TickCompositesOverTheBasePass : Prop :=
  ∀ (s t u : State) (base : Canvas Argb), runInput .tick s = .next t → runInput .tick { s with queue := [] } = .next u →
    u.colorOut = some base →
    t.colorOut = some
      (if s.powerSave = true ∧ s.cfg.compositeWhilePowerSave = false then base
       else composite s.cfg s.anim s.catalog base s.queue)

/-- R118. Every Tick empties the queue, whatever happened to its commands. -/
def Obligations.TickEmptiesTheQueue : Prop :=
  ∀ s : State, ∃ t, runInput .tick s = .next t ∧ t.queue = []

/-- R94 (that both buffers go out in one event is the spec's decision D28). A Tick emits one FramePublished and stores the same pair, in
power save too. -/
def Obligations.TickPublishesOneFrame : Prop :=
  ∀ s : State, ∃ t idx col, runInput .tick s = .next t ∧ t.indexOut = some idx ∧ t.colorOut = some col ∧
    t.outputs = s.outputs ++ [.framePublished idx col]

/-- R92 (derived in the spec). Two Ticks in a row, the queue empty and every pixel's VRAM backed (or power save on), publish identical
buffers. -/
def Obligations.RepeatedTickPublishesTheSameFrame : Prop :=
  ∀ s t u : State, s.queue = [] → (s.powerSave = true ∨ ∀ x y, s.pixelBacked x y) → runInput .tick s = .next t →
    runInput .tick t = .next u → u.indexOut = t.indexOut ∧ u.colorOut = t.colorOut

/-- R117. The index buffer a Tick publishes is the base pass's: no queue, catalog or animation state changes it. -/
def Obligations.SpritesNeverChangeTheIndexBuffer : Prop :=
  ∀ (s t t' : State) (catalog : List (String × Sprite)) (queue : List DrawCommand) (anim : Anim),
    runInput .tick s = .next t →
    runInput .tick { s with catalog := catalog, queue := queue, anim := anim } = .next t' → t'.indexOut = t.indexOut

/-- R103 (derived in the spec). Later commands overdraw earlier ones: with one more command at the queue's tail, a pixel it writes gets
that value, and every other pixel is as without it. -/
def Obligations.LaterCommandsOverdrawEarlierOnes : Prop :=
  ∀ (s t u : State) (cmd : DrawCommand) (x : Fin canvasW) (y : Fin canvasH) (before after : Canvas Argb),
    (s.powerSave = false ∨ s.cfg.compositeWhilePowerSave = true) → runInput .tick s = .next t →
    t.colorOut = some before → runInput .tick { s with queue := s.queue ++ [cmd] } = .next u →
    u.colorOut = some after →
    Canvas.get after x y = (commandWrite s.cfg s.anim s.catalog cmd x y).getD (Canvas.get before x y)

/-- R104 (what an empty sprite is, is the spec's decision D15, log 15). A command naming an unknown or empty sprite is skipped whole,
wherever it stands in the queue. -/
def Obligations.UnknownOrEmptySpriteIsSkipped : Prop :=
  ∀ (cfg : Config) (anim : Anim) (catalog : List (String × Sprite)) (col : Canvas Argb) (cmd : DrawCommand)
    (q r : List DrawCommand),
    (∀ sp, mapFind catalog cmd.spriteId = some sp → sp.pixels = [] ∨ sp.width = 0 ∨ sp.height = 0) →
    composite cfg anim catalog col (q ++ cmd :: r) = composite cfg anim catalog col (q ++ r)

/-- R108 to R110, with the types of D18 (log 16). A canvas pixel outside the command's destination rectangle is never written. -/
def Obligations.PixelsOutsideTheRectangleAreKept : Prop :=
  ∀ (cfg : Config) (anim : Anim) (catalog : List (String × Sprite)) (col : Canvas Argb) (cmd : DrawCommand)
    (x : Fin canvasW) (y : Fin canvasH),
    ((x.val : Int) < cmd.destX ∨ cmd.destX + cmd.destWidth ≤ x.val ∨ (y.val : Int) < cmd.destY ∨
      cmd.destY + cmd.destHeight ≤ y.val) →
    Canvas.get (composite cfg anim catalog col [cmd]) x y = Canvas.get col x y

/-- R106 to R116 for a sprite that is not the walker, by the default bounds check Rect (the spec's decisions D16, D17, log 14). Its local
pixel `(lx, ly)` lands on `(destX + lx, destY + ly)`, is read at row `explicitFrameIndex * height + ly`, and paints over where its alpha is
above 0; a transparent or out-of-bounds pixel leaves the destination. -/
def Obligations.OtherSpritePaintsOverWhereOpaque : Prop :=
  ∀ (cfg : Config) (anim : Anim) (catalog : List (String × Sprite)) (col : Canvas Argb) (cmd : DrawCommand) (sp : Sprite)
    (x : Fin canvasW) (y : Fin canvasH) (lx ly : Nat),
    mapFind catalog cmd.spriteId = some sp → sp.pixels ≠ [] → cmd.spriteId ≠ cfg.walkerId → cfg.spriteBounds = .rect →
    lx < cmd.destWidth → ly < cmd.destHeight → cmd.destX + lx = x.val → cmd.destY + ly = y.val →
    Canvas.get (composite cfg anim catalog col [cmd]) x y =
      if h : lx < sp.width ∧ cmd.explicitFrameIndex * sp.height + ly < sp.height ∧
          (cmd.explicitFrameIndex * sp.height + ly) * sp.width + lx < sp.pixels.length then
        let p := sp.pixels[(cmd.explicitFrameIndex * sp.height + ly) * sp.width + lx]'h.2.2
        if p.toNat / 2 ^ 24 = 0 then Canvas.get col x y
        else if cfg.forceOpaque then p ||| 0xFF000000 else p
      else Canvas.get col x y

/-- R106 to R115 for the walker, by the default bounds check Rect (the spec's decisions D14, D16, D17, log 3, 14). Its frame is the
synchronizer's, whatever the command says; the frame height is half the sprite's, truncating; a transparent pixel forces the opaque
colour 0; an out-of-bounds pixel leaves the destination. -/
def Obligations.WalkerForcesBackgroundWhereTransparent : Prop :=
  ∀ (cfg : Config) (anim : Anim) (catalog : List (String × Sprite)) (col : Canvas Argb) (cmd : DrawCommand) (sp : Sprite)
    (x : Fin canvasW) (y : Fin canvasH) (lx ly : Nat),
    mapFind catalog cmd.spriteId = some sp → sp.pixels ≠ [] → cmd.spriteId = cfg.walkerId → cfg.spriteBounds = .rect →
    lx < cmd.destWidth → ly < cmd.destHeight → cmd.destX + lx = x.val → cmd.destY + ly = y.val →
    Canvas.get (composite cfg anim catalog col [cmd]) x y =
      if h : lx < sp.width ∧ anim.currentFrame.val * (sp.height / 2) + ly < sp.height ∧
          (anim.currentFrame.val * (sp.height / 2) + ly) * sp.width + lx < sp.pixels.length then
        let p := sp.pixels[(anim.currentFrame.val * (sp.height / 2) + ly) * sp.width + lx]'h.2.2
        if p.toNat / 2 ^ 24 = 0 then 0xFF000000 ||| (cfg.palette[0]).zeroExtend 32
        else if cfg.forceOpaque then p ||| 0xFF000000 else p
      else Canvas.get col x y

/-- R104 to R116 by the other bounds check, Linear (the spec's decisions D16, D17, log 14; D14, D15, log 3, 15), for every sprite. A
local pixel is in bounds exactly where its linear index is below the buffer's length, rows and columns unchecked. In bounds it paints over
where its alpha is above 0; where it is transparent, the walker forces the opaque colour 0 and any other sprite leaves the destination. Out
of bounds, or in an empty sprite, the destination stays. -/
def Obligations.LinearBoundsCheckOnlyTheBufferLength : Prop :=
  ∀ (cfg : Config) (anim : Anim) (catalog : List (String × Sprite)) (col : Canvas Argb) (cmd : DrawCommand) (sp : Sprite)
    (x : Fin canvasW) (y : Fin canvasH) (lx ly frame height : Nat),
    mapFind catalog cmd.spriteId = some sp → cfg.spriteBounds = .linear →
    lx < cmd.destWidth → ly < cmd.destHeight → cmd.destX + lx = x.val → cmd.destY + ly = y.val →
    frame = (if cmd.spriteId = cfg.walkerId then anim.currentFrame.val else cmd.explicitFrameIndex) →
    height = (if cmd.spriteId = cfg.walkerId then sp.height / 2 else sp.height) →
    Canvas.get (composite cfg anim catalog col [cmd]) x y =
      if h : (sp.width ≠ 0 ∧ sp.height ≠ 0) ∧ (frame * height + ly) * sp.width + lx < sp.pixels.length then
        let p := sp.pixels[(frame * height + ly) * sp.width + lx]'h.2
        if p.toNat / 2 ^ 24 = 0 then
          if cmd.spriteId = cfg.walkerId then 0xFF000000 ||| (cfg.palette[0]).zeroExtend 32 else Canvas.get col x y
        else if cfg.forceOpaque then p ||| 0xFF000000 else p
      else Canvas.get col x y

/-- R121 (derived in the spec). By the bounds check Rect, a command naming a sprite that is not the walker with an explicit frame of at
least 1 paints nothing. -/
def Obligations.OtherSpritesShowOnlyFrameZero : Prop :=
  ∀ (cfg : Config) (anim : Anim) (catalog : List (String × Sprite)) (col : Canvas Argb) (cmd : DrawCommand),
    cfg.spriteBounds = .rect → cmd.spriteId ≠ cfg.walkerId → 1 ≤ cmd.explicitFrameIndex →
    composite cfg anim catalog col [cmd] = col

/-- R119 (derived in the spec). Two queues that differ only in provenance keys paint the same pixels. -/
def Obligations.ProvenanceKeysAreNeverRead : Prop :=
  ∀ (s t t' : State) (q : List DrawCommand), q.map DrawCommand.withoutKey = s.queue.map DrawCommand.withoutKey →
    runInput .tick s = .next t → runInput .tick { s with queue := q } = .next t' →
    t'.indexOut = t.indexOut ∧ t'.colorOut = t.colorOut

/-- R105 as written, a double loop over the local pixels of a command's rectangle, gives the canvas the model computes pixel by canvas
pixel (log 20). -/
def Obligations.LoopOverLocalPixelsPaintsTheSameCanvas : Prop :=
  ∀ (cfg : Config) (anim : Anim) (catalog : List (String × Sprite)) (col : Canvas Argb) (queue : List DrawCommand),
    queue.foldl (paintCommandLoop cfg anim catalog) col = composite cfg anim catalog col queue

/-- R51 (the layout is the spec's decision D28): a canvas handed over flat has 6144 elements, `(x, y)` at position `y*96 + x`. -/
def Obligations.FlatCanvasIsRowMajor : Prop :=
  ∀ (c : Canvas Argb) (x : Fin canvasW) (y : Fin canvasH),
    (Canvas.flat c).length = 6144 ∧ (Canvas.flat c)[y.val * 96 + x.val]? = some (Canvas.get c x y)

/-! ## Animation, catalog and queue -/

/-- R98. The first hash is stored without a toggle; a different one toggles the frame and is stored; an equal one changes nothing; nothing
but the animation state changes. And a step changes the animation state only by NotifyWalkerDrawn, and never unsets a stored hash. -/
def Obligations.OnlyChangedHashTogglesTheFrame : Prop :=
  (∀ (h : BitVec 32) (s : State), ∃ t, runInput (.notifyWalkerDrawn h) s = .next t ∧
    t = { s with anim := t.anim } ∧
    (s.anim.lastHash = none → t.anim = ⟨some h, s.anim.currentFrame⟩) ∧
    (s.anim.lastHash = some h → t.anim = s.anim) ∧
    (∀ last, s.anim.lastHash = some last → h ≠ last →
      t.anim.lastHash = some h ∧ t.anim.currentFrame.val = 1 - s.anim.currentFrame.val)) ∧
  (∀ s t : State, step s = .next t →
    (t.anim ≠ s.anim → ∃ h rest, s.inputs = .notifyWalkerDrawn h :: rest) ∧
    (s.anim.lastHash ≠ none → t.anim.lastHash ≠ none))

/-- R145 (derived in the spec). With hash A stored, B then A leaves the frame, and the stored hash, as they were. -/
def Obligations.TwoTogglesCancel : Prop :=
  ∀ (a b : BitVec 32) (s t u : State), s.anim.lastHash = some a → runInput (.notifyWalkerDrawn b) s = .next t →
    runInput (.notifyWalkerDrawn a) t = .next u → u = s

/-- R100 (that a zero-length buffer is stored is the spec's decision D15, log 15). A null buffer is a no-op; any other is stored whole
under `id`, with no check of its length, and every other entry and field stays. -/
def Obligations.UploadReplacesOneEntryWholesale : Prop :=
  ∀ (id id' : String) (px : List Argb) (w h : Nat) (s : State),
    runInput (.setColorSprite id none w h) s = .next s ∧
    ∃ t, runInput (.setColorSprite id (some px) w h) s = .next t ∧ t = { s with catalog := t.catalog } ∧
      spriteLookup t.catalog id' = if id' = id then some ⟨px, w, h⟩ else spriteLookup s.catalog id'

/-- R102 (the operation is the spec's name for the queuing, D19). QueueDraw appends at the tail and changes nothing else; nothing is checked. -/
def Obligations.QueueDrawAppendsAtTheTail : Prop :=
  ∀ (cmd : DrawCommand) (s : State), runInput (.queueDraw cmd) s = .next { s with queue := s.queue ++ [cmd] }

/-- R120 (derived in the spec). An upload or a notification after a QueueDraw is seen by the next Tick as if it had come before. -/
def Obligations.LookupsAreMadeAtTheTick : Prop :=
  ∀ (cmd : DrawCommand) (i : Input) (s t t' u u' : State),
    ((∃ id px w h, i = .setColorSprite id px w h) ∨ (∃ h, i = .notifyWalkerDrawn h)) →
    runInput (.queueDraw cmd) s = .next t → runInput i t = .next u →
    runInput i s = .next t' → runInput (.queueDraw cmd) t' = .next u' →
    runInput .tick u = runInput .tick u'
end

