-- ==== Sys2Proof/Laws/Canvas.lean ====
section
/-!
SUPPORT. Laws of canvases: every canvas is its elements.
-/

namespace Sys2Proof.Machine

section
variable {α : Type}

@[simp] theorem Canvas.get_ofFn (f : Fin canvasW → Fin canvasH → α) (x : Fin canvasW) (y : Fin canvasH) :
    Canvas.get (Canvas.ofFn f) x y = f x y := by
  simp [Canvas.get, Canvas.ofFn]

theorem Canvas.ext_get {v w : Canvas α} (h : ∀ x y, Canvas.get v x y = Canvas.get w x y) : v = w := by
  refine Vector.ext fun i hi => Vector.ext fun j hj => ?_
  exact h ⟨j, hj⟩ ⟨i, hi⟩

theorem Canvas.get_put (v : Canvas α) (x x' : Fin canvasW) (y y' : Fin canvasH) (a : α) :
    Canvas.get (Canvas.put v x y a) x' y' = if x' = x ∧ y' = y then a else Canvas.get v x' y' := by
  simp [Canvas.put]

theorem canvasPixel_eq_some {cx cy : Int} {x : Fin canvasW} {y : Fin canvasH} :
    canvasPixel cx cy = some (x, y) ↔ cx = x.val ∧ cy = y.val := by
  unfold canvasPixel
  split
  · rename_i h
    simp only [Option.some.injEq, Prod.mk.injEq, Fin.ext_iff]
    omega
  · rename_i h
    simp only [reduceCtorEq, false_iff]
    intro ⟨hx, hy⟩
    apply h
    have := x.isLt
    have := y.isLt
    omega

end

end Sys2Proof.Machine
end

