-- ==== Sys2Proof/Laws/Maps.lean ====
section
/-!
SUPPORT. Laws of the finite maps: find after insert and erase, and that every operation keeps the canonical form.
-/

namespace Sys2Proof.Machine

section
variable {κ α : Type} [LinearOrder κ]

@[simp] theorem mapFind_nil (k : κ) : mapFind ([] : List (κ × α)) k = none := rfl

theorem mapSorted_cons {e : κ × α} {m : List (κ × α)} :
    mapSorted (e :: m) = true ↔ (∀ x ∈ m, e.1 < x.1) ∧ mapSorted m = true := by
  simp [mapSorted]

theorem mapFind_eq_none_of_all_above {k : κ} {m : List (κ × α)} (h : ∀ x ∈ m, k < x.1) : mapFind m k = none := by
  induction m with
  | nil => rfl
  | cons e m ih =>
    have he : e.1 ≠ k := (h e (by simp)).ne'
    simp [mapFind, he, ih fun x hx => h x (by simp [hx])]

theorem mapFind_mapInsert (m : List (κ × α)) (k k' : κ) (v : α) :
    mapFind (mapInsert m k v) k' = if k' = k then some v else mapFind m k' := by
  induction m with
  | nil => simp [mapInsert, mapFind, eq_comm]
  | cons e m ih =>
    rcases lt_trichotomy k e.1 with h | h | h
    · simp [mapInsert, h, mapFind, eq_comm (a := k)]
    · by_cases hk : k' = k <;> simp [mapInsert, h, mapFind, hk, eq_comm (a := e.1)]
      simp [h ▸ hk]
    · have h1 : ¬ k < e.1 := not_lt_of_gt h
      by_cases hk : k' = e.1
      · subst hk
        simp [mapInsert, h1, h.ne', mapFind, h.ne]
      · simp [mapInsert, h1, h.ne', mapFind, Ne.symm hk, ih]

theorem mapFind_mapErase {m : List (κ × α)} (hm : mapSorted m = true) (k k' : κ) :
    mapFind (mapErase m k) k' = if k' = k then none else mapFind m k' := by
  induction m with
  | nil => simp [mapErase]
  | cons e m ih =>
    obtain ⟨habove, hm'⟩ := mapSorted_cons.1 hm
    by_cases he : e.1 = k
    · by_cases hk : k' = k
      · simp [mapErase, he, hk, mapFind_eq_none_of_all_above (he ▸ habove)]
      · simp [mapErase, he, hk, mapFind, Ne.symm hk]
    · by_cases hk : k' = e.1
      · subst hk
        simp [mapErase, he, mapFind]
      · simp [mapErase, he, mapFind, Ne.symm hk, ih hm']

theorem mem_mapInsert {m : List (κ × α)} {k : κ} {v : α} {x : κ × α} (h : x ∈ mapInsert m k v) :
    x = (k, v) ∨ x ∈ m := by
  induction m with
  | nil => simpa [mapInsert] using h
  | cons e m ih =>
    simp only [mapInsert] at h
    split at h
    · simpa using h
    · split at h
      · rcases List.mem_cons.1 h with h | h <;> simp [h]
      · rcases List.mem_cons.1 h with h | h
        · simp [h]
        · rcases ih h with h | h <;> simp [h]

theorem mem_mapErase {m : List (κ × α)} {k : κ} {x : κ × α} (h : x ∈ mapErase m k) : x ∈ m := by
  induction m with
  | nil => simp [mapErase] at h
  | cons e m ih =>
    simp only [mapErase] at h
    split at h
    · simp [h]
    · rcases List.mem_cons.1 h with h | h
      · simp [h]
      · simp [ih h]

theorem mapInsert_keeps_sorted {m : List (κ × α)} (hm : mapSorted m = true) (k : κ) (v : α) :
    mapSorted (mapInsert m k v) = true := by
  induction m with
  | nil => rfl
  | cons e m ih =>
    obtain ⟨habove, hm'⟩ := mapSorted_cons.1 hm
    simp only [mapInsert]
    split
    · rename_i hlt
      refine mapSorted_cons.2 ⟨fun x hx => ?_, hm⟩
      rcases List.mem_cons.1 hx with rfl | hx
      · exact hlt
      · exact hlt.trans (habove x hx)
    · split
      · rename_i hge heq
        exact mapSorted_cons.2 ⟨fun x hx => heq ▸ habove x hx, hm'⟩
      · rename_i hge hne
        refine mapSorted_cons.2 ⟨fun x hx => ?_, ih hm'⟩
        rcases mem_mapInsert hx with rfl | hx
        · exact lt_of_le_of_ne (not_lt.1 hge) (Ne.symm hne)
        · exact habove x hx

theorem mapErase_keeps_sorted {m : List (κ × α)} (hm : mapSorted m = true) (k : κ) :
    mapSorted (mapErase m k) = true := by
  induction m with
  | nil => rfl
  | cons e m ih =>
    obtain ⟨habove, hm'⟩ := mapSorted_cons.1 hm
    simp only [mapErase]
    split
    · exact hm'
    · exact mapSorted_cons.2 ⟨fun x hx => habove x (mem_mapErase hx), ih hm'⟩

theorem mapCanonical_iff [DecidableEq α] {d : α} {m : List (κ × α)} :
    mapCanonical d m = true ↔ mapSorted m = true ∧ ∀ x ∈ m, x.2 ≠ d := by
  simp [mapCanonical]

theorem mapWrite_keeps_canonical [DecidableEq α] {d : α} {m : List (κ × α)} (hm : mapCanonical d m = true) (k : κ)
    (v : α) : mapCanonical d (mapWrite d m k v) = true := by
  obtain ⟨hs, hd⟩ := mapCanonical_iff.1 hm
  simp only [mapWrite]
  split
  · exact mapCanonical_iff.2 ⟨mapErase_keeps_sorted hs k, fun x hx => hd x (mem_mapErase hx)⟩
  · rename_i hv
    refine mapCanonical_iff.2 ⟨mapInsert_keeps_sorted hs k v, fun x hx => ?_⟩
    rcases mem_mapInsert hx with rfl | hx
    · exact hv
    · exact hd x hx

theorem mapRead_mapWrite [DecidableEq α] {d : α} {m : List (κ × α)} (hm : mapCanonical d m = true) (k k' : κ) (v : α) :
    mapRead d (mapWrite d m k v) k' = if k' = k then v else mapRead d m k' := by
  obtain ⟨hs, -⟩ := mapCanonical_iff.1 hm
  simp only [mapRead, mapWrite]
  split
  · rename_i hv
    by_cases hk : k' = k <;> simp [mapFind_mapErase hs, hk, hv]
  · by_cases hk : k' = k <;> simp [mapFind_mapInsert, hk]

end

end Sys2Proof.Machine
end

