-- ==== Sys2Proof/Laws/Ops.lean ====
section
/-!
SUPPORT. Laws of the memory interface, the bus port and the gate.
-/

namespace Sys2Proof.Machine

theorem Memory.wf_nil : Memory.wf [] = true := rfl

theorem Memory.write_keeps_wf {m : List Host.Cell} (h : Memory.wf m = true) (a : Nat) (v : Byte) :
    Memory.wf (Memory.write m a v) = true := mapWrite_keeps_canonical h a v

theorem Memory.writeShort_keeps_wf {m : List Host.Cell} (h : Memory.wf m = true) (a : Nat) (v : BitVec 16) :
    Memory.wf (Memory.writeShort m a v) = true := Memory.write_keeps_wf (Memory.write_keeps_wf h a _) _ _

theorem portSetPin_keeps_canonical {ports : List (Nat × Nat)} (h : mapCanonical 0 ports = true) (p k : Nat)
    (level : Bool) : mapCanonical 0 (portSetPin ports p k level) = true := mapWrite_keeps_canonical h p _

theorem withBit_testBit (mask k k' : Nat) (level : Bool) :
    (withBit mask k level).testBit k' = if k' = k then level else mask.testBit k' := by
  unfold withBit
  split
  · split <;> simp_all
  · rename_i h
    by_cases hk : k' = k
    · subst hk
      cases level <;> simp_all [Nat.testBit_xor, Nat.shiftLeft_eq, Nat.testBit_two_pow_self]
    · have : k ≠ k' := fun h => hk h.symm
      simp [Nat.testBit_xor, Nat.shiftLeft_eq, hk, Nat.testBit_two_pow_of_ne this]

/-- R67 PIN: setting a pin gives it the level and leaves every other pin of every port as it was. -/
theorem portSetPin_changes_one_pin {ports : List (Nat × Nat)} (h : mapCanonical 0 ports = true) (p k p' k' : Nat)
    (level : Bool) :
    (portRead (portSetPin ports p k level) p').testBit k' =
      if p' = p ∧ k' = k then level else (portRead ports p').testBit k' := by
  simp only [portSetPin, portRead, mapRead_mapWrite h]
  by_cases hp : p' = p
  · subst hp
    simp [withBit_testBit]
  · simp [hp]

/-- R69: the gate as it is evaluated is the spec's formula on the port. -/
theorem canExecute_iff (s : State) : canExecute s = true ↔ s.csPinLow := by
  simp only [canExecute, State.csPinLow, Bool.or_eq_true, beq_iff_eq]
  constructor
  · rintro (h | h)
    · simp [h]
    · exact h
  · exact .inr

end Sys2Proof.Machine
end

