-- ==== Sys2Proof/Laws/PerInstr.lean ====
section
/-!
SUPPORT. Laws that hold of every command, one lemma per constructor.
-/

namespace Sys2Proof

theorem codeField_decodeWordOf (p : ProtocolState) (b : Byte) : codeField (decodeWordOf p b) = stateCode p := by
  revert b
  cases p <;> decide

theorem byteField_decodeWordOf (p : ProtocolState) (b : Byte) : byteField (decodeWordOf p b) = b := by
  revert b
  cases p <;> decide

@[simp] theorem stateOfCode_stateCode (p : ProtocolState) : stateOfCode (stateCode p) = some p := by
  cases p <;> rfl

/-- R58: in a protocol state, the decoder reads the command the byte selects there. -/
theorem decodeWord_decodeWordOf (p : ProtocolState) (b : Byte) : decodeWord (decodeWordOf p b) = some (decodeIn p b) := by
  simp [decodeWord, codeField_decodeWordOf, byteField_decodeWordOf]

/-- R58: a command's word carries the code of the state it is read in, never 0b11, and the command's byte. -/
def Laws.ReadState.Statement (i : Instr) : Prop :=
  codeField (encode i) = stateCode i.readIn ∧ codeField (encode i) ≠ 0b11 ∧ byteField (encode i) = encodeByte i

theorem readState_of_any (i : Instr) : Laws.ReadState.Statement i := by
  have h : codeField (encode i) = stateCode i.readIn := codeField_decodeWordOf _ _
  refine ⟨h, ?_, byteField_decodeWordOf _ _⟩
  rw [h]
  cases i.readIn <;> decide

theorem Laws.ReadState.colLo (n : BitVec 4) : Laws.ReadState.Statement (.colLo n) := readState_of_any _
theorem Laws.ReadState.colHi (n : BitVec 3) : Laws.ReadState.Statement (.colHi n) := readState_of_any _
theorem Laws.ReadState.pgofsPfx (k : BitVec 2) : Laws.ReadState.Statement (.pgofsPfx k) := readState_of_any _
theorem Laws.ReadState.contrastPfx : Laws.ReadState.Statement .contrastPfx := readState_of_any _
theorem Laws.ReadState.page (n : BitVec 4) : Laws.ReadState.Statement (.page n) := readState_of_any _
theorem Laws.ReadState.psaveOn : Laws.ReadState.Statement .psaveOn := readState_of_any _
theorem Laws.ReadState.psaveOff : Laws.ReadState.Statement .psaveOff := readState_of_any _
theorem Laws.ReadState.contrastArg (v : Byte) : Laws.ReadState.Statement (.contrastArg v) := readState_of_any _
theorem Laws.ReadState.pgofsArg (v : Byte) : Laws.ReadState.Statement (.pgofsArg v) := readState_of_any _
theorem Laws.ReadState.ign (b : Byte) : Laws.ReadState.Statement (.ign b) := readState_of_any _

end Sys2Proof
end

