-- ==== Sys2Proof/Laws/State.lean ====
section
/-!
SUPPORT. One lemma per field per named update of State.
-/

namespace Sys2Proof.Machine

section
variable (s : State) (o : Output)

@[simp] theorem State.emit_column : (s.emit o).column = s.column := rfl
@[simp] theorem State.emit_pageSelect : (s.emit o).pageSelect = s.pageSelect := rfl
@[simp] theorem State.emit_pageOffset : (s.emit o).pageOffset = s.pageOffset := rfl
@[simp] theorem State.emit_contrast : (s.emit o).contrast = s.contrast := rfl
@[simp] theorem State.emit_powerSave : (s.emit o).powerSave = s.powerSave := rfl
@[simp] theorem State.emit_protocolState : (s.emit o).protocolState = s.protocolState := rfl
@[simp] theorem State.emit_subOffset : (s.emit o).subOffset = s.subOffset := rfl
@[simp] theorem State.emit_anim : (s.emit o).anim = s.anim := rfl
@[simp] theorem State.emit_catalog : (s.emit o).catalog = s.catalog := rfl
@[simp] theorem State.emit_queue : (s.emit o).queue = s.queue := rfl
@[simp] theorem State.emit_indexOut : (s.emit o).indexOut = s.indexOut := rfl
@[simp] theorem State.emit_colorOut : (s.emit o).colorOut = s.colorOut := rfl
@[simp] theorem State.emit_cfg : (s.emit o).cfg = s.cfg := rfl
@[simp] theorem State.emit_ports : (s.emit o).ports = s.ports := rfl
@[simp] theorem State.emit_mem : (s.emit o).mem = s.mem := rfl
@[simp] theorem State.emit_vramReads : (s.emit o).vramReads = s.vramReads := rfl
@[simp] theorem State.emit_busFlags : (s.emit o).busFlags = s.busFlags := rfl
@[simp] theorem State.emit_inputs : (s.emit o).inputs = s.inputs := rfl
@[simp] theorem State.emit_outputs : (s.emit o).outputs = s.outputs ++ [o] := rfl

@[simp] theorem State.setTxFlags_column : (s.setTxFlags).column = s.column := rfl
@[simp] theorem State.setTxFlags_pageSelect : (s.setTxFlags).pageSelect = s.pageSelect := rfl
@[simp] theorem State.setTxFlags_pageOffset : (s.setTxFlags).pageOffset = s.pageOffset := rfl
@[simp] theorem State.setTxFlags_contrast : (s.setTxFlags).contrast = s.contrast := rfl
@[simp] theorem State.setTxFlags_powerSave : (s.setTxFlags).powerSave = s.powerSave := rfl
@[simp] theorem State.setTxFlags_protocolState : (s.setTxFlags).protocolState = s.protocolState := rfl
@[simp] theorem State.setTxFlags_subOffset : (s.setTxFlags).subOffset = s.subOffset := rfl
@[simp] theorem State.setTxFlags_anim : (s.setTxFlags).anim = s.anim := rfl
@[simp] theorem State.setTxFlags_catalog : (s.setTxFlags).catalog = s.catalog := rfl
@[simp] theorem State.setTxFlags_queue : (s.setTxFlags).queue = s.queue := rfl
@[simp] theorem State.setTxFlags_indexOut : (s.setTxFlags).indexOut = s.indexOut := rfl
@[simp] theorem State.setTxFlags_colorOut : (s.setTxFlags).colorOut = s.colorOut := rfl
@[simp] theorem State.setTxFlags_cfg : (s.setTxFlags).cfg = s.cfg := rfl
@[simp] theorem State.setTxFlags_ports : (s.setTxFlags).ports = s.ports := rfl
@[simp] theorem State.setTxFlags_mem : (s.setTxFlags).mem = s.mem := rfl
@[simp] theorem State.setTxFlags_vramReads : (s.setTxFlags).vramReads = s.vramReads := rfl
@[simp] theorem State.setTxFlags_busFlags : (s.setTxFlags).busFlags = ⟨true, true⟩ := rfl
@[simp] theorem State.setTxFlags_inputs : (s.setTxFlags).inputs = s.inputs := rfl
@[simp] theorem State.setTxFlags_outputs : (s.setTxFlags).outputs = s.outputs ++ [.setTxFlags] := rfl

variable (on : Bool)

@[simp] theorem State.setPowerSave_column : (s.setPowerSave on).column = s.column := rfl
@[simp] theorem State.setPowerSave_pageSelect : (s.setPowerSave on).pageSelect = s.pageSelect := rfl
@[simp] theorem State.setPowerSave_pageOffset : (s.setPowerSave on).pageOffset = s.pageOffset := rfl
@[simp] theorem State.setPowerSave_contrast : (s.setPowerSave on).contrast = s.contrast := rfl
@[simp] theorem State.setPowerSave_powerSave : (s.setPowerSave on).powerSave = on := rfl
@[simp] theorem State.setPowerSave_protocolState : (s.setPowerSave on).protocolState = s.protocolState := rfl
@[simp] theorem State.setPowerSave_subOffset : (s.setPowerSave on).subOffset = s.subOffset := rfl
@[simp] theorem State.setPowerSave_anim : (s.setPowerSave on).anim = s.anim := rfl
@[simp] theorem State.setPowerSave_catalog : (s.setPowerSave on).catalog = s.catalog := rfl
@[simp] theorem State.setPowerSave_queue : (s.setPowerSave on).queue = s.queue := rfl
@[simp] theorem State.setPowerSave_indexOut : (s.setPowerSave on).indexOut = s.indexOut := rfl
@[simp] theorem State.setPowerSave_colorOut : (s.setPowerSave on).colorOut = s.colorOut := rfl
@[simp] theorem State.setPowerSave_cfg : (s.setPowerSave on).cfg = s.cfg := rfl
@[simp] theorem State.setPowerSave_ports : (s.setPowerSave on).ports = s.ports := rfl
@[simp] theorem State.setPowerSave_mem : (s.setPowerSave on).mem = s.mem := rfl
@[simp] theorem State.setPowerSave_vramReads : (s.setPowerSave on).vramReads = s.vramReads := rfl
@[simp] theorem State.setPowerSave_busFlags : (s.setPowerSave on).busFlags = s.busFlags := rfl
@[simp] theorem State.setPowerSave_inputs : (s.setPowerSave on).inputs = s.inputs := rfl
@[simp] theorem State.setPowerSave_outputs : (s.setPowerSave on).outputs = s.outputs := rfl

variable (idx : Canvas (BitVec 2)) (col : Canvas Argb)

@[simp] theorem State.publish_column : (s.publish idx col).column = s.column := rfl
@[simp] theorem State.publish_pageSelect : (s.publish idx col).pageSelect = s.pageSelect := rfl
@[simp] theorem State.publish_pageOffset : (s.publish idx col).pageOffset = s.pageOffset := rfl
@[simp] theorem State.publish_contrast : (s.publish idx col).contrast = s.contrast := rfl
@[simp] theorem State.publish_powerSave : (s.publish idx col).powerSave = s.powerSave := rfl
@[simp] theorem State.publish_protocolState : (s.publish idx col).protocolState = s.protocolState := rfl
@[simp] theorem State.publish_subOffset : (s.publish idx col).subOffset = s.subOffset := rfl
@[simp] theorem State.publish_anim : (s.publish idx col).anim = s.anim := rfl
@[simp] theorem State.publish_catalog : (s.publish idx col).catalog = s.catalog := rfl
@[simp] theorem State.publish_queue : (s.publish idx col).queue = s.queue := rfl
@[simp] theorem State.publish_indexOut : (s.publish idx col).indexOut = some idx := rfl
@[simp] theorem State.publish_colorOut : (s.publish idx col).colorOut = some col := rfl
@[simp] theorem State.publish_cfg : (s.publish idx col).cfg = s.cfg := rfl
@[simp] theorem State.publish_ports : (s.publish idx col).ports = s.ports := rfl
@[simp] theorem State.publish_mem : (s.publish idx col).mem = s.mem := rfl
@[simp] theorem State.publish_vramReads : (s.publish idx col).vramReads = s.vramReads := rfl
@[simp] theorem State.publish_busFlags : (s.publish idx col).busFlags = s.busFlags := rfl
@[simp] theorem State.publish_inputs : (s.publish idx col).inputs = s.inputs := rfl
@[simp] theorem State.publish_outputs : (s.publish idx col).outputs = s.outputs ++ [.framePublished idx col] := rfl

@[simp] theorem State.tick_column : (tick s).column = s.column := rfl
@[simp] theorem State.tick_pageSelect : (tick s).pageSelect = s.pageSelect := rfl
@[simp] theorem State.tick_pageOffset : (tick s).pageOffset = s.pageOffset := rfl
@[simp] theorem State.tick_contrast : (tick s).contrast = s.contrast := rfl
@[simp] theorem State.tick_powerSave : (tick s).powerSave = s.powerSave := rfl
@[simp] theorem State.tick_protocolState : (tick s).protocolState = s.protocolState := rfl
@[simp] theorem State.tick_subOffset : (tick s).subOffset = s.subOffset := rfl
@[simp] theorem State.tick_anim : (tick s).anim = s.anim := rfl
@[simp] theorem State.tick_catalog : (tick s).catalog = s.catalog := rfl
@[simp] theorem State.tick_queue : (tick s).queue = [] := rfl
@[simp] theorem State.tick_indexOut : (tick s).indexOut = some (baseIndices s) := rfl
@[simp] theorem State.tick_colorOut : (tick s).colorOut = some (frameColors s (baseIndices s)) := rfl
@[simp] theorem State.tick_cfg : (tick s).cfg = s.cfg := rfl
@[simp] theorem State.tick_ports : (tick s).ports = s.ports := rfl
@[simp] theorem State.tick_mem : (tick s).mem = s.mem := rfl
@[simp] theorem State.tick_vramReads : (tick s).vramReads = s.vramReads + basePassReads s := rfl
@[simp] theorem State.tick_busFlags : (tick s).busFlags = s.busFlags := rfl
@[simp] theorem State.tick_inputs : (tick s).inputs = s.inputs := rfl
@[simp] theorem State.tick_outputs : (tick s).outputs = s.outputs ++ [.framePublished (baseIndices s) (frameColors s (baseIndices s))] := rfl

end

end Sys2Proof.Machine
end

