-- ==== Sys2Proof/Laws/Exec.lean ====
section
/-!
SUPPORT. Once for each shared operation, everything it can do: every command ends in `setTxFlags` of its effect; a Transmit runs the
command its byte selects; a step runs the next input,
and a run is its steps.
-/

namespace Sys2Proof.Machine

/-- The effect of a command before the bus flags are set. -/
def instrEffect (i : Instr) (s : State) : State :=
  match i with
  | .colLo n => { s with column := columnWithLow s.column n, subOffset := 0 }
  | .colHi n => { s with column := columnWithHigh s.column n, subOffset := 0 }
  | .pgofsPfx _ => { s with protocolState := .awaitingPageOffset }
  | .contrastPfx => { s with protocolState := .awaitingContrast }
  | .page n => { s with pageSelect := n }
  | .psaveOn => { s with powerSave := true }
  | .psaveOff => { s with powerSave := false }
  | .contrastArg v => { s with contrast := v, protocolState := .waiting }
  | .pgofsArg v => { s with pageOffset := pageOffsetOf v, protocolState := .waiting }
  | .ign _ => s

theorem exec_eq (i : Instr) (s : State) : exec i s = .next (instrEffect i s).setTxFlags := by
  cases i <;> rfl

theorem transmit_eq_exec (b : Byte) (s : State) : transmit b s = exec (decodeIn s.protocolState b) s := by
  simp [transmit, runWord, decodeWord_decodeWordOf]

theorem transmit_eq (b : Byte) (s : State) :
    transmit b s = .next (instrEffect (decodeIn s.protocolState b) s).setTxFlags := by
  rw [transmit_eq_exec, exec_eq]

/-- The state an input leaves. -/
def inputEffect (i : Input) (s : State) : State :=
  match i with
  | .offerByte b => if canExecute s then (instrEffect (decodeIn s.protocolState b) s).setTxFlags else s
  | .tick => tick s
  | .notifyWalkerDrawn h => notifyWalkerDrawn h s
  | .setColorSprite id pixels width height => setColorSprite id pixels width height s
  | .queueDraw cmd => queueDraw cmd s
  | .setPin port pin level => { s with ports := portSetPin s.ports port pin level }
  | .writeByte addr v => { s with mem := Memory.write s.mem addr v }
  | .writeShort addr v => { s with mem := Memory.writeShort s.mem addr v }
  | .peerSetsFlags f => { s with busFlags := f }

theorem runInput_eq (i : Input) (s : State) : runInput i s = .next (inputEffect i s) := by
  cases i with
  | offerByte b =>
    simp only [runInput, offerByte, inputEffect]
    split
    · rw [transmit_eq]
    · rfl
  | _ => rfl

/-- Everything a step can do: with no input nothing, else the effect of the first. -/
theorem step_cases {s t : State} (h : step s = .next t) :
    (s.inputs = [] ∧ t = s) ∨ ∃ i rest, s.inputs = i :: rest ∧ t = inputEffect i { s with inputs := rest } := by
  simp only [step] at h
  split at h
  · rename_i hi
    exact .inl ⟨hi, by simpa using h.symm⟩
  · rename_i i rest hi
    rw [runInput_eq] at h
    exact .inr ⟨i, rest, hi, by simpa using h.symm⟩

/-- A run goes on from the state a step leaves. -/
theorem run_succ_of_next {s t : State} (h : step s = .next t) (k : Nat) :
    Host.Core.run Sys2Proof.core (k + 1) s = Host.Core.run Sys2Proof.core k t := by
  have h' : Host.Core.step Sys2Proof.core s = .next t := h
  simp only [Host.Core.run, h']

end Sys2Proof.Machine
end

