-- ==== Sys2Proof/Laws/Render.lean ====
section
/-!
SUPPORT. Laws of the render pass, pixel by pixel.
-/

namespace Sys2Proof.Machine

theorem baseIndices_get (s : State) (x : Fin canvasW) (y : Fin canvasH) :
    Canvas.get (baseIndices s) x y = if s.powerSave then 0 else paletteIndex s x y := by
  simp [baseIndices]

/-- R92: the index buffer is a function of these five fields alone. -/
theorem baseIndices_congr {s t : State} (hp : s.powerSave = t.powerSave) (ho : s.pageOffset = t.pageOffset)
    (hc : s.cfg = t.cfg) (hm : s.mem = t.mem) (hv : s.vramReads = t.vramReads) : baseIndices s = baseIndices t := by
  refine Canvas.ext_get fun x y => ?_
  simp only [baseIndices_get, paletteIndex, hp, ho, hc, hm, hv]

/-- R85: where the overlay runs, the published colours are the composited base colours. -/
theorem frameColors_composited {s : State} (h : s.powerSave = false ∨ s.cfg.compositeWhilePowerSave = true)
    (idx : Canvas (BitVec 2)) :
    frameColors s idx = composite s.cfg s.anim s.catalog (baseColors s.cfg idx) s.queue := by
  rcases h with h | h <;> simp [frameColors, h]

/-- R85: with nothing queued, the published colours are the base colours. -/
theorem frameColors_of_queue_nil {s : State} (h : s.queue = []) (idx : Canvas (BitVec 2)) :
    frameColors s idx = baseColors s.cfg idx := by
  simp [frameColors, h, composite]

/-- R85, R31: the published colours are a function of these fields and the index buffer alone. -/
theorem frameColors_congr {s t : State} (hp : s.powerSave = t.powerSave) (hc : s.cfg = t.cfg) (ha : s.anim = t.anim)
    (hk : s.catalog = t.catalog) (hq : s.queue = t.queue) (idx : Canvas (BitVec 2)) :
    frameColors s idx = frameColors t idx := by
  simp only [frameColors, hp, hc, ha, hk, hq]

/-- Below VRAM_BYTES a read is the byte of the memory interface, at or beyond it a free value (R45). -/
theorem vramRead_backed {cfg : Config} {i : Nat} (h : i < cfg.vramBytes) (mem : List Host.Cell) (n : Nat) :
    vramRead cfg mem i n = Memory.read mem (cfg.vramBase + i) := if_pos h

theorem vramRead_unbacked {cfg : Config} {i : Nat} (h : cfg.vramBytes ≤ i) (mem : List Host.Cell) (n : Nat) :
    vramRead cfg mem i n = Config.freeVramByte n := if_neg (Nat.not_lt.2 h)

theorem baseColors_get (cfg : Config) (idx : Canvas (BitVec 2)) (x : Fin canvasW) (y : Fin canvasH) :
    Canvas.get (baseColors cfg idx) x y = opaqueColor cfg (Canvas.get idx x y) := by
  simp [baseColors]

theorem paintCommand_get (cfg : Config) (anim : Anim) (catalog : List (String × Sprite)) (col : Canvas Argb)
    (cmd : DrawCommand) (x : Fin canvasW) (y : Fin canvasH) :
    Canvas.get (paintCommand cfg anim catalog col cmd) x y =
      (commandWrite cfg anim catalog cmd x y).getD (Canvas.get col x y) := by
  simp [paintCommand]

/-- A command that writes nothing anywhere leaves the canvas. -/
theorem paintCommand_eq_of_no_write {cfg : Config} {anim : Anim} {catalog : List (String × Sprite)} {cmd : DrawCommand}
    (h : ∀ (x : Fin canvasW) (y : Fin canvasH), commandWrite cfg anim catalog cmd x y = none) (col : Canvas Argb) :
    paintCommand cfg anim catalog col cmd = col := by
  refine Canvas.ext_get fun x y => ?_
  simp [paintCommand_get, h x y]

/-- What a local pixel's turn of R105's loop does to each canvas pixel. -/
theorem paintLocal_get (cfg : Config) (anim : Anim) (cmd : DrawCommand) (sp : Sprite) (localX localY : Nat)
    (col : Canvas Argb) (x : Fin canvasW) (y : Fin canvasH) :
    Canvas.get (paintLocal cfg anim cmd sp localY col localX) x y =
      if cmd.destX + localX = x.val ∧ cmd.destY + localY = y.val then
        (localWrite cfg anim cmd sp localX localY).getD (Canvas.get col x y)
      else Canvas.get col x y := by
  unfold paintLocal
  split
  · rename_i h
    rw [if_neg fun hxy => by rw [canvasPixel_eq_some.2 hxy] at h; cases h]
  · rename_i x' y' h
    have hxy : (cmd.destX + localX = x.val ∧ cmd.destY + localY = y.val) ↔ (x = x' ∧ y = y') := by
      rw [← canvasPixel_eq_some, h, Option.some.injEq, Prod.mk.injEq, eq_comm, eq_comm (a := y')]
    simp only [hxy]
    split <;> rename_i hw
    · simp [hw]
    · simp [hw, Canvas.get_put]

theorem composite_append (cfg : Config) (anim : Anim) (catalog : List (String × Sprite)) (col : Canvas Argb)
    (q r : List DrawCommand) :
    composite cfg anim catalog col (q ++ r) = composite cfg anim catalog (composite cfg anim catalog col q) r := by
  simp [composite]

@[simp] theorem composite_nil (cfg : Config) (anim : Anim) (catalog : List (String × Sprite)) (col : Canvas Argb) :
    composite cfg anim catalog col [] = col := by
  unfold composite
  rw [List.foldl_nil]

theorem composite_cons (cfg : Config) (anim : Anim) (catalog : List (String × Sprite)) (col : Canvas Argb)
    (cmd : DrawCommand) (q : List DrawCommand) :
    composite cfg anim catalog col (cmd :: q) =
      composite cfg anim catalog (paintCommand cfg anim catalog col cmd) q := by
  unfold composite
  rw [List.foldl_cons]

/-- R114: the alpha test, on the word as a number. -/
theorem alphaOf_pos_iff (p : Argb) : 0 < alphaOf p ↔ p.toNat / 2 ^ 24 ≠ 0 := by
  have h : (alphaOf p).toNat = p.toNat / 2 ^ 24 := by
    have := p.isLt
    simp only [alphaOf, BitVec.extractLsb'_toNat, Nat.shiftRight_eq_div_pow]
    omega
  rw [BitVec.lt_def, h]
  exact Nat.pos_iff_ne_zero

theorem combinePlanes_toNat (hiByte loByte : Byte) (k : Nat) :
    (combinePlanes hiByte loByte k).toNat = 2 * (hiByte.toNat / 2 ^ k % 2) + loByte.toNat / 2 ^ k % 2 := by
  have h (b : Byte) : (BitVec.ofBool (b.getLsbD k)).toNat = b.toNat / 2 ^ k % 2 := by
    rw [BitVec.toNat_ofBool, BitVec.getLsbD, Nat.testBit_eq_decide_div_mod_eq]
    have := Nat.mod_two_eq_zero_or_one (b.toNat / 2 ^ k)
    rcases this with h | h <;> simp [h]
  rw [combinePlanes, BitVec.toNat_append, h, h]
  rcases Nat.mod_two_eq_zero_or_one (hiByte.toNat / 2 ^ k) with h1 | h1 <;>
    rcases Nat.mod_two_eq_zero_or_one (loByte.toNat / 2 ^ k) with h2 | h2 <;> simp [h1, h2]

end Sys2Proof.Machine
end

