-- ==== Sys2Proof/Tests/Slice0.lean ====
section
/-!
SUPPORT. The model's own tests. Expected results are the words, bytes, indices and colours that spec/30_encoding.md and
spec/95_test_vectors.md give (the vector's id stands in the test's comment); C(i) is the opaque colour i. After them, one witness per
obligation that has hypotheses.
-/

namespace Sys2Proof.Tests

open Sys2Proof Sys2Proof.Machine

/-- Parameters for the tests: the vectors' WALKER_ID, a palette of four different colours, and 19572 bytes of VRAM at 0x1000. -/
def cfg : Config where
  palette := #v[0xFFFFFF, 0xAAAAAA, 0x555555, 0x000001]
  walkerId := "W"
  csPort := 1
  csPin := 2
  vramBase := 0x1000
  vramBytes := 19572
  tickPeriod := 1
  compositeWhilePowerSave := true
  spriteBounds := .rect
  forceOpaque := false
  resetAddressing := AddressingReset.zero

/-- Reset with those parameters. -/
def st : State := State.resetWith cfg

/-- A command drawing a sprite at a place in a size. -/
def draw (id : String) (x y : Int) (w h frame : Nat) : DrawCommand :=
  { spriteId := id, destX := x, destY := y, destWidth := w, destHeight := h, explicitFrameIndex := frame, provenanceKey := 0 }

/-- A test of the state an outcome leaves. -/
def after (o : Host.Outcome State Fault Refusal) (test : State → Bool) : Bool :=
  match o with
  | .next t => test t
  | .fault _ => false
  | .refused _ => false

/-- The palette index published at a pixel by one Tick. -/
def idxAt (s : State) (x : Fin canvasW) (y : Fin canvasH) : Option (BitVec 2) :=
  (tick s).indexOut.map fun c => Canvas.get c x y

/-- The colour published at a pixel by one Tick. -/
def colAt (s : State) (x : Fin canvasW) (y : Fin canvasH) : Option Argb :=
  (tick s).colorOut.map fun c => Canvas.get c x y

/-! ### Well-formedness: an ill-formed term for each check, refused -/

theorem test_ign_of_command_byte_refused : (Instr.ign 0x81).wellFormed = false := by decide
theorem test_ign_of_last_ignored_byte_accepted : (Instr.ign 0xFF).wellFormed = true := by decide
theorem test_zero_tick_period_refused : ({ cfg with tickPeriod := 0 } : Config).wellFormed = false := by decide
theorem test_parameter_without_prefix_byte_refused : streamWellFormed .waiting [.contrastArg 1] = false := by decide
theorem test_command_in_place_of_parameter_refused :
    streamWellFormed .waiting [.pgofsPfx 0, .psaveOn] = false := by decide
theorem test_ill_formed_command_in_stream_refused : streamWellFormed .waiting [.ign 0xB0] = false := by decide

/-! ### Decoding: words written out from the formats of R59 -/

theorem test_word_col_lo : decodeWord 0b00_0000_0101 = some (.colLo 5) := by decide
theorem test_word_col_hi : decodeWord 0b00_0001_0100 = some (.colHi 4) := by decide
theorem test_word_pgofs_pfx : decodeWord 0b00_0100_0011 = some (.pgofsPfx 3) := by decide
theorem test_word_contrast_pfx : decodeWord 0b00_1000_0001 = some .contrastPfx := by decide
theorem test_word_page : decodeWord 0b00_1011_0111 = some (.page 7) := by decide
theorem test_word_psave_on : decodeWord 0b00_1010_1001 = some .psaveOn := by decide
theorem test_word_psave_off : decodeWord 0b00_1110_0001 = some .psaveOff := by decide
theorem test_word_contrast_arg : decodeWord 0b01_1010_1001 = some (.contrastArg 0xA9) := by decide
theorem test_word_pgofs_arg : decodeWord 0b10_1000_0001 = some (.pgofsArg 0x81) := by decide
theorem test_word_ign : decodeWord 0b00_0001_1000 = some (.ign 0x18) := by decide
theorem test_word_reserved_code : decodeWord 0b11_0000_0000 = none := by decide
theorem test_table_word_above_bit_nine : decodeTableWord 16 0x400 = none := by decide
theorem test_table_word_psave_on : decodeTableWord 16 0x0A9 = some .psaveOn := by decide

/-- R62, R68: 30 rows, each row's own match word decoding to the row's mnemonic. -/
theorem test_every_table_row_decodes :
    opcodeRows.length = 30 ∧
    opcodeRows.all (fun r => (decodeTableWord 16 r.matchBits.toNat).map Instr.mnemonic == some r.mnemonic) = true := by
  decide

/-- R61: 209 of the 256 bytes are IGN in Waiting. -/
theorem test_ignored_byte_count :
    ((List.range 256).filter fun b => (decodeWaiting (BitVec.ofNat 8 b)).mnemonic == "IGN").length = 209 := by
  decide +kernel

/-- Both ends of each ignored range of R61. -/
theorem test_ends_of_ignored_ranges :
    [0x18, 0x3F, 0x44, 0x80, 0x82, 0xA8, 0xAA, 0xAF, 0xC0, 0xE0, 0xE2, 0xFF].all
      (fun b : Byte => decodeWaiting b == .ign b) = true := by decide

/-- R64. -/
theorem test_command_lengths : [0x40, 0x43, 0x81, 0x44, 0xA9].map commandLength = [2, 2, 2, 1, 1] := by decide

/-- R66: COL 0x45 is 0x05 0x14, PGOFS 31 is 0x40 0xF8. -/
theorem test_pseudo_bytes : (Pseudo.col 0x45).bytes = [0x05, 0x14] ∧ (Pseudo.pgofs 31).bytes = [0x40, 0xF8] := by decide

/-! ### Commands, one step each -/

/-- V-P1. -/
theorem test_col_lo_keeps_high_nibble :
    after (transmit 0x0A { st with column := 0x45 }) (fun t => t.column == 0x4A && t.subOffset == 0) = true := by decide
/-- R21, R73: the hidden offset is reset. -/
theorem test_col_lo_resets_sub_offset :
    after (transmit 0x00 { st with subOffset := 3 }) (fun t => t.subOffset == 0) = true := by decide
/-- V-P21, second byte: bit 7 is cleared. -/
theorem test_col_hi_clears_bit_seven :
    after (transmit 0x12 { st with column := 0x83 }) (fun t => t.column == 0x23) = true := by decide
/-- R75's example. -/
theorem test_pgofs_pfx_awaits :
    after (transmit 0x42 st) (fun t => t.protocolState == .awaitingPageOffset && t.pageOffset == 0) = true := by decide
/-- L1-1, first byte. -/
theorem test_contrast_pfx_awaits :
    after (transmit 0x81 st) (fun t => t.protocolState == .awaitingContrast && t.contrast == 0) = true := by decide
/-- V-P14: subOffset is not reset. -/
theorem test_page_keeps_sub_offset :
    after (transmit 0xB0 { st with pageSelect := 15, subOffset := 7 })
      (fun t => t.pageSelect == 0 && t.subOffset == 7) = true := by decide
/-- V-P15. -/
theorem test_psave_on : after (transmit 0xA9 st) (fun t => t.powerSave) = true := by decide
/-- V-P16. -/
theorem test_psave_off : after (transmit 0xE1 { st with powerSave := true }) (fun t => !t.powerSave) = true := by decide
/-- V-P11, second byte: a command byte taken as the parameter. -/
theorem test_contrast_arg_swallows_command :
    after (transmit 0xA9 { st with protocolState := .awaitingContrast })
      (fun t => t.contrast == 0xA9 && !t.powerSave && t.protocolState == .waiting) = true := by decide
/-- V-P7 and V-P10, second bytes. -/
theorem test_pgofs_arg_divides_by_eight :
    after (transmit 0x0F { st with protocolState := .awaitingPageOffset }) (fun t => t.pageOffset == 1) = true ∧
    after (transmit 0x81 { st with protocolState := .awaitingPageOffset })
      (fun t => t.pageOffset == 16 && t.protocolState == .waiting) = true := by decide
/-- V-P5, with the bus flags of R71. -/
theorem test_ign_sets_only_bus_flags :
    transmit 0x18 st = .next { st with busFlags := ⟨true, true⟩, outputs := [.setTxFlags] } := by rfl

/-- V-P18: the pin high, nothing is delivered. -/
theorem test_byte_behind_closed_gate :
    after (step { st with ports := [(1, 4)], inputs := [.offerByte 0xA9] })
      (fun t => !t.powerSave && t.outputs.isEmpty) = true := by decide
/-- V-P19: the other pins of the port do not matter. -/
theorem test_byte_through_open_gate :
    after (step { st with ports := [(1, 0xFB)], inputs := [.offerByte 0xA9] })
      (fun t => t.powerSave && t.outputs.length == 1) = true := by decide
/-- V-P22. -/
theorem test_tick_keeps_awaiting :
    after (step { st with protocolState := .awaitingPageOffset, inputs := [.tick] })
      (fun t => t.protocolState == .awaitingPageOffset) = true := by decide
/-- Log 10: the machine's own reset, with its opaque parameters, runs a placed word first. -/
theorem test_placed_word_runs_from_reset :
    step (State.reset.withFetchWord 16 0x281) =
      exec (.pgofsArg 0x81) { State.reset with protocolState := .awaitingPageOffset } := by rfl
/-- Log 30: a closed gate is opened for a placed word. -/
theorem test_placed_word_opens_the_gate :
    after (step ({ st with ports := [(1, 7)] }.withFetchWord 16 0x0A9))
      (fun t => t.powerSave && t.ports == [(1, 3)]) = true := by decide

/-! ### Render vectors -/

/-- V-R2, V-R3, V-R4: which plane gives which bit. -/
theorem test_plane_order :
    idxAt { st with mem := [(0x1000, 0x01)] } 0 0 = some 2 ∧ idxAt { st with mem := [(0x1001, 0x01)] } 0 0 = some 1 ∧
    idxAt { st with mem := [(0x1000, 0x01), (0x1001, 0x01)] } 0 0 = some 3 := by decide
/-- V-R5: VRAM index 520, bit 2. -/
theorem test_pixel_of_second_page :
    idxAt { st with mem := [(0x1000 + 520, 0x04)] } 5 10 = some 2 ∧
    idxAt { st with mem := [(0x1000 + 520, 0x04)] } 5 8 = some 0 := by decide
/-- V-R12: the largest index read. -/
theorem test_largest_index :
    idxAt { st with pageOffset := 31, mem := [(0x1000 + 19571, 0x80)] } 95 63 = some 1 := by decide
/-- V-R7: power save blanks, and reads nothing. -/
theorem test_power_save_blanks :
    idxAt { st with powerSave := true, mem := [(0x1000, 0xFF)] } 0 0 = some 0 ∧
    colAt { st with powerSave := true, mem := [(0x1000, 0xFF)] } 0 0 = some 0xFFFFFFFF ∧
    (tick { st with powerSave := true }).vramReads = 0 := by decide
/-- V-R15: an unbacked pixel is a free value, a backed one is not. -/
theorem test_backed_pixel_of_small_vram :
    idxAt { st with cfg := { cfg with vramBytes := 1024 }, pageOffset := 2 } 1 7 = some 0 := by decide
/-- V-R8 with COMPOSITE_WHILE_POWERSAVE off. -/
theorem test_no_overlay_in_power_save_when_off :
    colAt { st with
      cfg := { cfg with compositeWhilePowerSave := false }, powerSave := true,
      catalog := [("A", ⟨[0xFF00FF00], 1, 1⟩)], queue := [draw "A" 0 0 1 1 0] } 0 0 = some 0xFFFFFFFF := by decide

/-! ### Compositor vectors -/

/-- V-C1 and V-C2: an opaque and a transparent pixel of a sprite that is not the walker, over base 3. -/
theorem test_other_sprite_pixels :
    colAt { st with
      mem := [(0x1000, 1), (0x1001, 1)], catalog := [("A", ⟨[0xFF00FF00], 1, 1⟩)], queue := [draw "A" 0 0 1 1 0] } 0 0 =
        some 0xFF00FF00 ∧
    colAt { st with
      mem := [(0x1000, 1), (0x1001, 1)], catalog := [("A", ⟨[0x00FFFFFF], 1, 1⟩)], queue := [draw "A" 0 0 1 1 0] } 0 0 =
        some 0xFF000001 := by decide
/-- V-C3: the walker's transparent pixel forces the background; the explicit frame is ignored. -/
theorem test_walker_transparent_pixel :
    colAt { st with
      mem := [(0x1000, 1), (0x1001, 1)], catalog := [("W", ⟨[0x00123456, 0xFF0000FF], 1, 2⟩)],
      queue := [draw "W" 0 0 1 1 5] } 0 0 = some 0xFFFFFFFF := by decide
/-- V-C8: clipping at the left edge does not shift the sprite. -/
theorem test_clipping_keeps_local_coordinates :
    colAt { st with
      catalog := [("B", ⟨[0xFF000001, 0xFF000002, 0xFF000003], 3, 1⟩)], queue := [draw "B" (-2) 0 3 1 0] } 0 0 =
        some 0xFF000003 := by decide
/-- V-C10: the two bounds checks. -/
theorem test_bounds_checks :
    colAt { st with catalog := [("A", ⟨[0xFF0000AA, 0xFF0000BB], 1, 1⟩)], queue := [draw "A" 0 0 2 1 0] } 1 0 =
      some 0xFFFFFFFF ∧
    colAt { st with
      cfg := { cfg with spriteBounds := .linear }, catalog := [("A", ⟨[0xFF0000AA, 0xFF0000BB], 1, 1⟩)],
      queue := [draw "A" 0 0 2 1 0] } 1 0 = some 0xFF0000BB := by decide
/-- V-C12: alpha 0x01 paints; FORCE_OPAQUE. -/
theorem test_alpha_one_paints :
    colAt { st with catalog := [("A", ⟨[0x01ABCDEF], 1, 1⟩)], queue := [draw "A" 0 0 1 1 0] } 0 0 = some 0x01ABCDEF ∧
    colAt { st with
      cfg := { cfg with forceOpaque := true }, catalog := [("A", ⟨[0x01ABCDEF], 1, 1⟩)],
      queue := [draw "A" 0 0 1 1 0] } 0 0 = some 0xFFABCDEF := by decide
/-- V-C14: an odd walker height, frame 1, read past the frame. -/
theorem test_walker_odd_height :
    colAt { st with
      anim := ⟨some 2, 1⟩, catalog := [("W", ⟨[0xFF000001, 0xFF000002, 0xFF000003], 1, 3⟩)],
      queue := [draw "W" 0 0 1 2 0] } 0 1 = some 0xFF000003 := by decide
/-- V-C16: the walker's background overrides an earlier paint. -/
theorem test_walker_background_over_earlier_paint :
    colAt { st with
      mem := [(0x1000, 1), (0x1001, 1)],
      catalog := [("A", ⟨[0xFFFF0000], 1, 1⟩), ("W", ⟨[0, 0], 1, 2⟩)],
      queue := [draw "A" 0 0 1 1 0, draw "W" 0 0 1 1 0] } 0 0 = some 0xFFFFFFFF := by decide
/-- V-C17: an out-of-bounds walker pixel is skipped, not forced. -/
theorem test_walker_out_of_bounds_pixel :
    colAt { st with
      mem := [(0x1002, 1), (0x1003, 1)], catalog := [("W", ⟨[0xFF000001, 0xFF000002], 1, 2⟩)],
      queue := [draw "W" 0 0 2 1 0] } 1 0 = some 0xFF000001 := by decide

/-! ### Animation, catalog, queue -/

/-- V-A1: a first hash of 0 is stored, no toggle. -/
theorem test_first_hash_does_not_toggle : (notifyWalkerDrawn 0 st).anim = ⟨some 0, 0⟩ := by decide
/-- V-A4's last two calls' effect: a different hash toggles. -/
theorem test_changed_hash_toggles :
    (notifyWalkerDrawn 0xB { st with anim := ⟨some 0xA, 0⟩ }).anim = ⟨some 0xB, 1⟩ ∧
    (notifyWalkerDrawn 0xC { st with anim := ⟨some 0xB, 1⟩ }).anim = ⟨some 0xC, 0⟩ := by decide
/-- R100, and V-C7's null upload. -/
theorem test_upload_replaces_entry :
    (setColorSprite "A" (some [1]) 1 1 { st with catalog := [("A", ⟨[2, 3], 2, 1⟩), ("B", ⟨[], 0, 0⟩)] }).catalog =
      [("A", ⟨[1], 1, 1⟩), ("B", ⟨[], 0, 0⟩)] ∧
    setColorSprite "A" none 5 5 st = st := ⟨by decide, rfl⟩
/-- R43, and the canonical form: writing what an unlisted byte reads as removes the entry. -/
theorem test_memory_writes :
    Memory.writeShort [] 0x1000 0xBEEF = [(0x1000, 0xEF), (0x1001, 0xBE)] ∧
    Memory.write [(3, 1), (5, 2)] 3 0 = [(5, 2)] := by decide
/-- R51: the flat layout. -/
theorem test_flat_layout :
    (Canvas.flat (Canvas.ofFn fun x y => y.val * 1000 + x.val))[98]? = some 1002 := by decide

/-! ### Witnesses: for each obligation with hypotheses, a state and operands that meet them all -/

/-- A state with one input waiting. -/
def withInput (i : Input) : State := { st with inputs := [i] }

theorem wit_DecodeOfEncodeIsTheCommand : (Instr.ign 0x18).wellFormed = true := by decide
theorem wit_EncodeOfDecodeIsTheWord : decodeWord 0x2FF = some (.pgofsArg 0xFF) := by decide
theorem wit_DecodedWordSelectsOneTableRow : decodeWord 0x0E2 = some (.ign 0xE2) := by decide
theorem wit_OnlyReservedStateCodeIsRefused : codeField 0x3FF = 0b11 ∧ codeField 0x2FF ≠ 0b11 := by decide
theorem wit_StreamDecodesToItsCommands :
    streamWellFormed .waiting [.contrastPfx, .contrastArg 0xA9, .psaveOn, .pgofsPfx 1, .pgofsArg 0x81, .ign 0xFF] = true := by
  decide
theorem wit_ColLoWritesLowColumnNibble :
    st.protocolState = .waiting ∧ (0x0F : Byte).toNat = (15 : BitVec 4).toNat := by decide
theorem wit_ColHiWritesHighColumnBits :
    st.protocolState = .waiting ∧ (0x17 : Byte).toNat = 0x10 + (7 : BitVec 3).toNat := by decide
theorem wit_PgofsPfxAwaitsPageOffset :
    st.protocolState = .waiting ∧ (0x43 : Byte).toNat = 0x40 + (3 : BitVec 2).toNat := by decide
theorem wit_ContrastPfxAwaitsContrast : st.protocolState = .waiting := by decide
theorem wit_PageWritesPageSelect :
    (st.protocolState = .waiting ∧ (0xBF : Byte).toNat = 0xB0 + (15 : BitVec 4).toNat) ∧
    ∃ t u, runInput .tick st = .next t ∧ runInput .tick { st with pageSelect := 15 } = .next u :=
  ⟨by decide, _, _, rfl, rfl⟩
theorem wit_PsaveCommandsWritePowerSave : st.protocolState = .waiting := by decide
theorem wit_ContrastArgWritesContrast :
    ({ st with protocolState := .awaitingContrast } : State).protocolState = .awaitingContrast ∧
    ∃ t u, runInput .tick st = .next t ∧ runInput .tick { st with contrast := 0xFF } = .next u :=
  ⟨rfl, _, _, rfl, rfl⟩
theorem wit_PgofsArgWritesPageOffset :
    ({ st with protocolState := .awaitingPageOffset } : State).protocolState = .awaitingPageOffset := by decide
theorem wit_IgnoredBytesChangeNothing :
    st.protocolState = .waiting ∧ 0x18 ≤ (0x3F : Byte).toNat ∧ (0x3F : Byte).toNat ≤ 0x3F ∧ 0xE2 ≤ (0xE2 : Byte).toNat := by
  decide
theorem wit_ProtocolStateFollowsTransitionTable :
    ∃ t u, transmit 0x81 st = .next t ∧ transmit 0x40 t = .next u ∧ t.protocolState = .awaitingContrast ∧
      u.protocolState = .waiting := ⟨_, _, rfl, rfl, rfl, rfl⟩
theorem wit_OnlyDeliveredBytesMoveProtocolState :
    ∃ t, step (withInput (.offerByte 0x43)) = .next t ∧ t.protocolState ≠ (withInput (.offerByte 0x43)).protocolState :=
  ⟨_, rfl, by decide⟩
theorem wit_EveryByteSetsBothBusFlags :
    (∀ f, Input.tick ≠ .peerSetsFlags f) ∧
    ∃ t, runInput .tick { st with busFlags := ⟨true, true⟩ } = .next t ∧
      ({ st with busFlags := ⟨true, true⟩ } : State).busFlags.transmitBufferEmpty = true ∧
      ({ st with busFlags := ⟨true, true⟩ } : State).busFlags.transmitComplete = true :=
  ⟨fun _ h => (by cases h), _, rfl, rfl, rfl⟩
theorem wit_TransmitNeitherReadsNorWritesTheCompositor :
    ∃ t, transmit 0x0F { st with queue := [draw "A" 0 0 1 1 0] } = .next t := ⟨_, rfl⟩
theorem wit_PseudoInstructionsSetTheirRegister : st.protocolState = .waiting := by decide
theorem wit_StepRunsTheDecodedCommand :
    (withInput (.offerByte 0x05)).inputs = .offerByte 0x05 :: [] ∧ (withInput (.offerByte 0x05)).csPinLow ∧
    decodeWord (decodeWordOf (withInput (.offerByte 0x05)).protocolState 0x05) = some (.colLo 5) :=
  ⟨rfl, by unfold State.csPinLow; decide, by decide⟩
theorem wit_ByteBehindClosedGateIsNotDelivered :
    ({ withInput (.offerByte 0xA9) with ports := [(1, 4)] } : State).inputs = .offerByte 0xA9 :: [] ∧
    ¬ ({ withInput (.offerByte 0xA9) with ports := [(1, 4)] } : State).csPinLow :=
  ⟨rfl, by unfold State.csPinLow; decide⟩
theorem wit_OfferedStreamRunsItsCommands :
    streamWellFormed st.protocolState [.pgofsPfx 3, .pgofsArg 0x0F] = true ∧
    ({ st with inputs := [.offerByte 0x43, .offerByte 0x0F] } : State).csPinLow ∧
    ({ st with inputs := [.offerByte 0x43, .offerByte 0x0F] } : State).inputs =
      [Instr.pgofsPfx 3, .pgofsArg 0x0F].map (fun i => .offerByte (encodeByte i)) :=
  ⟨by decide, by unfold State.csPinLow; decide, by decide⟩
theorem wit_OperationsWriteOnlyTheirFields :
    (∃ t, transmit 0xE1 st = .next t) ∧ mapCanonical 0 ({ st with ports := [(1, 3)] } : State).ports = true ∧
    (1 : Nat) = st.cfg.csPort ∧ (2 : Nat) = st.cfg.csPin := ⟨⟨_, rfl⟩, by decide, rfl, rfl⟩
theorem wit_StepKeepsCanonicalForm :
    ∃ t, (withInput (.writeByte 7 1)).canonical = true ∧ step (withInput (.writeByte 7 1)) = .next t ∧ t.mem = [(7, 1)] :=
  ⟨_, by decide, rfl, by decide⟩
theorem wit_StepKeepsBuffersTheLastFrame :
    (withInput .tick).buffersAreLastFrame ∧ ∃ t, step (withInput .tick) = .next t ∧ t.outputs.length = 1 :=
  ⟨⟨rfl, rfl⟩, _, rfl, rfl⟩
theorem wit_StepKeepsColumnReachable :
    (withInput (.offerByte 0x17)).columnReachable ∧
    ∃ t, step (withInput (.offerByte 0x17)) = .next t ∧ t.column = 0x70 :=
  ⟨by unfold State.columnReachable; decide, _, rfl, by decide⟩
theorem wit_NoStepWritesTheParameters : ∃ t, step (withInput (.setPin 1 2 true)) = .next t ∧ t.ports = [(1, 4)] :=
  ⟨_, rfl, by decide⟩
theorem wit_UnreadRegistersAffectNoOutput :
    (withInput (.offerByte 0x05)).withoutUnread = ({ withInput (.offerByte 0x05) with contrast := 9 } : State).withoutUnread ∧
    ∃ t t', step (withInput (.offerByte 0x05)) = .next t ∧
      step { withInput (.offerByte 0x05) with contrast := 9 } = .next t' := ⟨rfl, _, _, rfl, rfl⟩
theorem wit_MemoryWritesReadBack :
    Memory.wf ({ st with mem := [(5, 1), (7, 2)] } : State).mem = true ∧ Memory.wf [(7, 2), (5, 1)] = false := by decide
theorem wit_TickDecodesTheBitplanes : st.powerSave = false := by decide
theorem wit_VramReadsAreMemoryOrDraws :
    19571 < cfg.vramBytes ∧ ({ st with pageOffset := 2, cfg := { cfg with vramBytes := 1024 } } : State).powerSave = false ∧
    ({ cfg with vramBytes := 1024 } : Config).vramBytes ≤ baseIndex 2 2 0 := by decide
theorem wit_PageOffsetScrollsByWholePages :
    st.powerSave = false ∧ (63 : Fin canvasH).val = (55 : Fin canvasH).val + 8 ∧
    (31 : BitVec 5).toNat = (30 : BitVec 5).toNat + 1 ∧ baseIndex 31 (95 : Fin canvasW) (55 : Fin canvasH) + 1 < cfg.vramBytes := by
  decide
theorem wit_BaseColorIsTheOpaquePaletteColor : st.queue = [] := rfl
theorem wit_PowerSaveBlanksTheCanvas :
    ({ st with powerSave := true } : State).powerSave = true ∧ ({ st with powerSave := true } : State).queue = [] := ⟨rfl, rfl⟩
theorem wit_TickCompositesOverTheBasePass :
    ∃ t u base, runInput .tick st = .next t ∧ runInput .tick { st with queue := [] } = .next u ∧ u.colorOut = some base :=
  ⟨_, _, _, rfl, rfl, rfl⟩
theorem wit_RepeatedTickPublishesTheSameFrame :
    st.queue = [] ∧ (∀ x y, st.pixelBacked x y) ∧ ∃ t u, runInput .tick st = .next t ∧ runInput .tick t = .next u := by
  refine ⟨rfl, fun x y => ?_, _, _, rfl, rfl⟩
  have hx : x.val < 96 := x.isLt
  have hy : y.val < 64 := y.isLt
  show 2 * x.val + (y.val / 8 + 0) * totalColumns * 2 + 1 < 19572
  unfold totalColumns
  omega
theorem wit_SpritesNeverChangeTheIndexBuffer :
    ∃ t t', runInput .tick st = .next t ∧
      runInput .tick { st with
        catalog := [("A", ⟨[0xFF000001], 1, 1⟩)], queue := [draw "A" 0 0 1 1 0], anim := ⟨some 1, 1⟩ } = .next t' :=
  ⟨_, _, rfl, rfl⟩
theorem wit_LaterCommandsOverdrawEarlierOnes :
    (st.powerSave = false ∨ st.cfg.compositeWhilePowerSave = true) ∧
    ∃ t u b a, runInput .tick st = .next t ∧ t.colorOut = some b ∧
      runInput .tick { st with queue := st.queue ++ [draw "A" 0 0 1 1 0] } = .next u ∧ u.colorOut = some a :=
  ⟨.inl rfl, _, _, _, _, rfl, rfl, rfl, rfl⟩
theorem wit_UnknownOrEmptySpriteIsSkipped :
    (∀ sp, mapFind ([] : List (String × Sprite)) "Z" = some sp → sp.pixels = [] ∨ sp.width = 0 ∨ sp.height = 0) ∧
    (∀ sp, mapFind [("E", (⟨[], 0, 0⟩ : Sprite))] "E" = some sp → sp.pixels = [] ∨ sp.width = 0 ∨ sp.height = 0) :=
  ⟨fun _ h => (by cases h), fun _ h => (by cases h; exact .inl rfl)⟩
theorem wit_PixelsOutsideTheRectangleAreKept :
    ((0 : Fin canvasW).val : Int) < (draw "A" 1 0 1 1 0).destX ∧
    (draw "A" 0 0 1 1 0).destX + (draw "A" 0 0 1 1 0).destWidth ≤ (1 : Fin canvasW).val ∧
    ((0 : Fin canvasH).val : Int) < (draw "A" 0 1 1 1 0).destY ∧
    (draw "A" 0 (-1) 1 1 0).destY + (draw "A" 0 (-1) 1 1 0).destHeight ≤ (0 : Fin canvasH).val := by decide
theorem wit_OtherSpritePaintsOverWhereOpaque :
    mapFind [("A", (⟨[0xFF000001, 0], 2, 1⟩ : Sprite))] (draw "A" (-1) 0 2 1 0).spriteId = some ⟨[0xFF000001, 0], 2, 1⟩ ∧
    ([0xFF000001, 0] : List Argb) ≠ [] ∧ (draw "A" (-1) 0 2 1 0).spriteId ≠ cfg.walkerId ∧ cfg.spriteBounds = .rect ∧
    1 < (draw "A" (-1) 0 2 1 0).destWidth ∧ 0 < (draw "A" (-1) 0 2 1 0).destHeight ∧
    (draw "A" (-1) 0 2 1 0).destX + (1 : Nat) = (0 : Fin canvasW).val ∧
    (draw "A" (-1) 0 2 1 0).destY + (0 : Nat) = (0 : Fin canvasH).val := by decide
theorem wit_WalkerForcesBackgroundWhereTransparent :
    mapFind [("W", (⟨[0, 0xFF000001], 1, 2⟩ : Sprite))] (draw "W" 95 63 1 1 0).spriteId = some ⟨[0, 0xFF000001], 1, 2⟩ ∧
    ([0, 0xFF000001] : List Argb) ≠ [] ∧ (draw "W" 95 63 1 1 0).spriteId = cfg.walkerId ∧ cfg.spriteBounds = .rect ∧
    0 < (draw "W" 95 63 1 1 0).destWidth ∧ 0 < (draw "W" 95 63 1 1 0).destHeight ∧
    (draw "W" 95 63 1 1 0).destX + (0 : Nat) = (95 : Fin canvasW).val ∧
    (draw "W" 95 63 1 1 0).destY + (0 : Nat) = (63 : Fin canvasH).val := by decide
/-- For a sprite that is not the walker the last position of the buffer, a column beyond the width; for the walker the first one beyond
it. -/
theorem wit_LinearBoundsCheckOnlyTheBufferLength :
    ({ cfg with spriteBounds := .linear } : Config).spriteBounds = .linear ∧
    (mapFind [("A", (⟨[1, 0xFF000002], 1, 1⟩ : Sprite))] (draw "A" 94 0 2 1 0).spriteId = some ⟨[1, 0xFF000002], 1, 1⟩ ∧
      (draw "A" 94 0 2 1 0).spriteId ≠ cfg.walkerId ∧ 1 < (draw "A" 94 0 2 1 0).destWidth ∧
      0 < (draw "A" 94 0 2 1 0).destHeight ∧ (draw "A" 94 0 2 1 0).destX + (1 : Nat) = (95 : Fin canvasW).val ∧
      (draw "A" 94 0 2 1 0).destY + (0 : Nat) = (0 : Fin canvasH).val ∧ (0 * 1 + 0) * 1 + 1 < [1, 0xFF000002].length) ∧
    (mapFind [("W", (⟨[0, 1], 1, 2⟩ : Sprite))] (draw "W" 0 62 1 2 0).spriteId = some ⟨[0, 1], 1, 2⟩ ∧
      (draw "W" 0 62 1 2 0).spriteId = cfg.walkerId ∧ 0 < (draw "W" 0 62 1 2 0).destWidth ∧
      1 < (draw "W" 0 62 1 2 0).destHeight ∧ (draw "W" 0 62 1 2 0).destX + (0 : Nat) = (0 : Fin canvasW).val ∧
      (draw "W" 0 62 1 2 0).destY + (1 : Nat) = (63 : Fin canvasH).val ∧ ¬ (1 * (2 / 2) + 1) * 1 + 0 < [0, 1].length) := by
  decide
theorem wit_OtherSpritesShowOnlyFrameZero :
    cfg.spriteBounds = .rect ∧ (draw "A" 0 0 1 1 1).spriteId ≠ cfg.walkerId ∧ 1 ≤ (draw "A" 0 0 1 1 1).explicitFrameIndex := by
  decide
theorem wit_ProvenanceKeysAreNeverRead :
    [{ draw "A" 0 0 1 1 0 with provenanceKey := 9 }].map DrawCommand.withoutKey =
      ({ st with queue := [draw "A" 0 0 1 1 0] } : State).queue.map DrawCommand.withoutKey ∧
    ∃ t t', runInput .tick { st with queue := [draw "A" 0 0 1 1 0] } = .next t ∧
      runInput .tick { st with queue := [{ draw "A" 0 0 1 1 0 with provenanceKey := 9 }] } = .next t' :=
  ⟨rfl, _, _, rfl, rfl⟩
theorem wit_OnlyChangedHashTogglesTheFrame :
    st.anim.lastHash = none ∧ ({ st with anim := ⟨some 5, 1⟩ } : State).anim.lastHash = some 5 ∧ (6 : BitVec 32) ≠ 5 ∧
    ∃ t, step (withInput (.notifyWalkerDrawn 6)) = .next t ∧ t.anim ≠ (withInput (.notifyWalkerDrawn 6)).anim :=
  ⟨rfl, rfl, by decide, _, rfl, by decide⟩
theorem wit_TwoTogglesCancel :
    ({ st with anim := ⟨some 5, 1⟩ } : State).anim.lastHash = some 5 ∧
    ∃ t u, runInput (.notifyWalkerDrawn 6) { st with anim := ⟨some 5, 1⟩ } = .next t ∧
      runInput (.notifyWalkerDrawn 5) t = .next u := ⟨rfl, _, _, rfl, rfl⟩
theorem wit_LookupsAreMadeAtTheTick :
    ∃ t t' u u', runInput (.queueDraw (draw "A" 0 0 1 1 0)) st = .next t ∧
      runInput (.setColorSprite "A" (some [0xFF123456]) 1 1) t = .next u ∧
      runInput (.setColorSprite "A" (some [0xFF123456]) 1 1) st = .next t' ∧
      runInput (.queueDraw (draw "A" 0 0 1 1 0)) t' = .next u' := ⟨_, _, _, _, rfl, rfl, rfl, rfl⟩

end Sys2Proof.Tests
end

section
/-!
PROOFS. The commands of the protocol state machine: a well-formed command's byte, delivered in the state the command is read in, runs
that command; each command's next state is its effect with the bus flags set.
-/

namespace Sys2Proof

theorem isIgnByte_iff (b : Byte) :
    isIgnByte b = true ↔
      (0x18 ≤ b.toNat ∧ b.toNat ≤ 0x3F) ∨ (0x44 ≤ b.toNat ∧ b.toNat ≤ 0x80) ∨ (0x82 ≤ b.toNat ∧ b.toNat ≤ 0xA8) ∨
        (0xAA ≤ b.toNat ∧ b.toNat ≤ 0xAF) ∨ (0xC0 ≤ b.toNat ∧ b.toNat ≤ 0xE0) ∨ 0xE2 ≤ b.toNat := by
  simp [isIgnByte, BitVec.le_def, or_assoc]

theorem encodeByte_colLo_toNat (n : BitVec 4) : (encodeByte (.colLo n)).toNat = n.toNat := by
  revert n
  decide

theorem encodeByte_pgofsPfx_toNat (k : BitVec 2) : (encodeByte (.pgofsPfx k)).toNat = 0x40 + k.toNat := by
  revert k
  decide

/-- An ignored byte lies in none of the ranges that `decodeWaiting` tests (R61). -/
theorem decodeWaiting_of_isIgnByte {b : Byte} (h : isIgnByte b = true) : decodeWaiting b = .ign b := by
  rw [isIgnByte_iff] at h
  simp only [decodeWaiting, BitVec.le_def, ← BitVec.toNat_inj, BitVec.reduceToNat]
  rw [if_neg (by omega), if_neg (by omega), if_neg (by omega), if_neg (by omega), if_neg (by omega), if_neg (by omega),
    if_neg (by omega)]

/-- R65: read where it belongs, the byte of a well-formed command selects that command. -/
theorem decodeIn_encodeByte {i : Instr} (h : i.wellFormed = true) : decodeIn i.readIn (encodeByte i) = i := by
  cases i with
  | colLo n => revert n; decide
  | colHi n => revert n; decide
  | pgofsPfx k => revert k; decide
  | page n => revert n; decide
  | ign b => exact decodeWaiting_of_isIgnByte h
  | contrastPfx | psaveOn | psaveOff | contrastArg | pgofsArg => rfl

end Sys2Proof

namespace Sys2Proof.Machine

/-- R72: a Transmit of a well-formed command's byte, in the state the command is read in, runs the command. -/
theorem transmit_encodeByte {i : Instr} (hi : i.wellFormed = true) {s : State} (hs : s.protocolState = i.readIn) :
    transmit (encodeByte i) s = exec i s := by
  rw [transmit_eq_exec, hs, decodeIn_encodeByte hi]

/-- The statements give a byte by its number. -/
theorem transmit_of_toNat_eq {i : Instr} (hi : i.wellFormed = true) {s : State} (hs : s.protocolState = i.readIn)
    {b : Byte} (hb : b.toNat = (encodeByte i).toNat) : transmit b s = exec i s := by
  rw [BitVec.eq_of_toNat_eq hb, transmit_encodeByte hi hs]

/-- The mask of R60 keeps the high nibble. -/
theorem and_highNibble_toNat (c : BitVec 8) : (c &&& 0xF0).toNat = 2 ^ 4 * (c.toNat / 16) := by
  revert c
  decide

theorem columnWithLow_toNat (c : BitVec 8) (n : BitVec 4) :
    (columnWithLow c n).toNat = c.toNat / 16 * 16 + n.toNat := by
  have hn : n.toNat < 2 ^ 4 := n.isLt
  have hz : (n.zeroExtend 8).toNat = n.toNat := BitVec.toNat_setWidth_of_le (by decide)
  rw [columnWithLow, BitVec.toNat_or, and_highNibble_toNat, hz, ← Nat.two_pow_add_eq_or_of_lt hn]
  omega

theorem pageOffsetOf_toNat (v : Byte) : (pageOffsetOf v).toNat = v.toNat / 8 := by
  have hv : v.toNat < 256 := v.isLt
  have hdiv : (v / 8).toNat = v.toNat / 8 := BitVec.toNat_udiv
  rw [pageOffsetOf, BitVec.truncate_eq_setWidth, BitVec.toNat_setWidth, hdiv]
  omega

/-- Settles O8: COL.LO's effect with `columnWithLow` read as a number. -/
theorem colLoWritesLowColumnNibble : Obligations.ColLoWritesLowColumnNibble := by
  intro n s
  refine ⟨fun hs b hb => transmit_of_toNat_eq rfl hs ?_, _, exec_eq _ _, columnWithLow_toNat s.column n, rfl⟩
  rw [hb, encodeByte_colLo_toNat]

/-- Settles O15: PGOFS.ARG's effect with `pageOffsetOf` read as a number. -/
theorem pgofsArgWritesPageOffset : Obligations.PgofsArgWritesPageOffset := by
  intro v s
  exact ⟨transmit_encodeByte (i := .pgofsArg v) rfl, _, exec_eq _ _, pageOffsetOf_toNat v, rfl⟩

/-- Settles O16: the listed bytes are the ones `isIgnByte` accepts, and IGN has no effect before the bus flags are set. -/
theorem ignoredBytesChangeNothing : Obligations.IgnoredBytesChangeNothing := by
  intro b s
  refine ⟨fun hs hb => ?_, exec_eq _ _⟩
  have hi : (Instr.ign b).wellFormed = true := (isIgnByte_iff b).mpr hb
  exact transmit_encodeByte hi hs

/-- Settles O10: the operand selects the byte and is dropped by the effect. -/
theorem pgofsPfxAwaitsPageOffset : Obligations.PgofsPfxAwaitsPageOffset := by
  intro k s
  refine ⟨fun hs b hb => transmit_of_toNat_eq rfl hs ?_, exec_eq _ _⟩
  rw [hb, encodeByte_pgofsPfx_toNat]

/-- Settles O11: CONTRAST.PFX's byte and its effect. -/
theorem contrastPfxAwaitsContrast : Obligations.ContrastPfxAwaitsContrast :=
  fun _ => ⟨transmit_encodeByte (i := .contrastPfx) rfl, exec_eq _ _⟩

/-- Settles O13: the two commands' bytes and their effects. -/
theorem psaveCommandsWritePowerSave : Obligations.PsaveCommandsWritePowerSave := by
  intro s
  refine ⟨fun hs => ⟨?_, ?_⟩, exec_eq _ _, exec_eq _ _⟩
  · exact transmit_encodeByte (i := .psaveOn) rfl hs
  · exact transmit_encodeByte (i := .psaveOff) rfl hs

end Sys2Proof.Machine
end

section
/-!
PROOFS. The base pass: the alpha of a palette colour, what a Tick publishes with nothing queued, and power save.
-/

namespace Sys2Proof.Machine

/-- R29: a palette entry has 24 bits, so its colour leaves the alpha byte clear. -/
theorem paletteColor_toNat_lt (cfg : Config) (i : BitVec 2) : (paletteColor cfg i).toNat < 2 ^ 24 := by
  have hz : (paletteColor cfg i).toNat = (cfg.palette[i.toNat]'i.isLt).toNat := BitVec.toNat_setWidth_of_le (by decide)
  rw [hz]
  exact BitVec.isLt _

/-- R90: the mask alone fills the alpha byte. -/
theorem opaqueColor_alpha (cfg : Config) (i : BitVec 2) : (opaqueColor cfg i).toNat / 2 ^ 24 = 0xFF := by
  rw [opaqueColor, BitVec.toNat_or, Nat.or_div_two_pow, Nat.div_eq_of_lt (paletteColor_toNat_lt cfg i)]
  decide

/-- R90, R91: with nothing queued, a Tick's colours are the opaque colours of its indices, in power save too. -/
theorem frameColors_get_of_queue_nil {s : State} (h : s.queue = []) (idx : Canvas (BitVec 2)) (x : Fin canvasW)
    (y : Fin canvasH) : Canvas.get (frameColors s idx) x y = opaqueColor s.cfg (Canvas.get idx x y) := by
  rw [frameColors_of_queue_nil h, baseColors_get]

theorem baseIndices_get_of_powerSave {s : State} (h : s.powerSave = true) (x : Fin canvasW) (y : Fin canvasH) :
    Canvas.get (baseIndices s) x y = 0 := by
  rw [baseIndices_get, if_pos h]

theorem basePassReads_of_powerSave {s : State} (h : s.powerSave = true) : basePassReads s = 0 := if_pos h

/-- Settles O39: an empty queue publishes the base colours, whose alpha is the mask's. -/
theorem baseColorIsTheOpaquePaletteColor : Obligations.BaseColorIsTheOpaquePaletteColor := by
  intro s x y hq
  have hcol := frameColors_get_of_queue_nil hq (baseIndices s) x y
  refine ⟨tick s, baseIndices s, frameColors s (baseIndices s), rfl, State.tick_indexOut s, State.tick_colorOut s, hcol, ?_⟩
  rw [hcol, opaqueColor_alpha]

/-- Settles O40: power save makes the base pass index 0 with no read, and the published colour is the colour of that index. -/
theorem powerSaveBlanksTheCanvas : Obligations.PowerSaveBlanksTheCanvas := by
  intro s x y hps
  have hidx := baseIndices_get_of_powerSave hps x y
  have hreads : (tick s).vramReads = s.vramReads := by
    rw [State.tick_vramReads, basePassReads_of_powerSave hps, Nat.add_zero]
  have hcol (hq : s.queue = []) : Canvas.get (frameColors s (baseIndices s)) x y = opaqueColor s.cfg 0 := by
    rw [frameColors_get_of_queue_nil hq, hidx]
  exact ⟨tick s, baseIndices s, frameColors s (baseIndices s), rfl, State.tick_indexOut s, State.tick_colorOut s,
    hreads, State.tick_queue s, hidx, hcol⟩

end Sys2Proof.Machine
end

section
/-!
PROOFS. What a Tick leaves: the base pass's index buffer and an empty queue.
-/

namespace Sys2Proof.Machine

/-- An input that runs leaves its effect and nothing else. -/
theorem eq_inputEffect_of_runInput {i : Input} {s t : State} (h : runInput i s = .next t) : t = inputEffect i s := by
  rw [runInput_eq] at h
  exact (Host.Outcome.next.inj h).symm

/-- R117, R118: the index buffer a Tick publishes is the base pass's. -/
theorem indexOut_of_runInput_tick {s t : State} (h : runInput .tick s = .next t) : t.indexOut = some (baseIndices s) := by
  rw [eq_inputEffect_of_runInput h]
  exact State.tick_indexOut s

/-- Settles O42: a Tick's state has the empty queue whatever the commands were. -/
theorem tickEmptiesTheQueue : Obligations.TickEmptiesTheQueue :=
  fun s => ⟨tick s, runInput_eq .tick s, State.tick_queue s⟩

/-- Settles O45: both Ticks publish their base pass, which reads none of the three fields that differ. -/
theorem spritesNeverChangeTheIndexBuffer : Obligations.SpritesNeverChangeTheIndexBuffer := by
  intro s t t' catalog queue anim ht ht'
  have hbase : baseIndices { s with catalog := catalog, queue := queue, anim := anim } = baseIndices s :=
    baseIndices_congr rfl rfl rfl rfl rfl
  rw [indexOut_of_runInput_tick ht, indexOut_of_runInput_tick ht', hbase]

end Sys2Proof.Machine
end

section
/-!
PROOFS. The animation state: what a content hash does to it, and that no other input touches it.
-/

namespace Sys2Proof.Machine

theorem animAfter_of_none {a : Anim} (ha : a.lastHash = none) (h : BitVec 32) :
    animAfter a h = ⟨some h, a.currentFrame⟩ := by
  simp [animAfter, ha]

theorem animAfter_of_same {a : Anim} {h : BitVec 32} (ha : a.lastHash = some h) : animAfter a h = a := by
  simp [animAfter, ha]

theorem animAfter_of_changed {a : Anim} {last h : BitVec 32} (ha : a.lastHash = some last) (hne : h ≠ last) :
    animAfter a h = ⟨some h, 1 - a.currentFrame⟩ := by
  simp [animAfter, ha, hne]

/-- R98: in each of the three cases the hash is the stored one afterwards. -/
theorem animAfter_lastHash (a : Anim) (h : BitVec 32) : (animAfter a h).lastHash = some h := by
  cases ha : a.lastHash with
  | none => rw [animAfter_of_none ha]
  | some last =>
    by_cases hne : h = last
    · subst hne
      rw [animAfter_of_same ha, ha]
    · rw [animAfter_of_changed ha hne]

/-- The two frames are exchanged, with no wrap-around. -/
theorem toggledFrame_val (f : Fin 2) : (1 - f).val = 1 - f.val := by
  revert f
  decide

theorem instrEffect_anim (i : Instr) (s : State) : (instrEffect i s).anim = s.anim := by
  cases i <;> rfl

theorem setColorSprite_anim (id : String) (pixels : Option (List Argb)) (width height : Nat) (s : State) :
    (setColorSprite id pixels width height s).anim = s.anim := by
  cases pixels <;> rfl

/-- R98, R31: an input either is a notification, which the synchronizer takes, or leaves the animation state. -/
theorem inputEffect_anim (i : Input) (s : State) :
    (∃ h, i = .notifyWalkerDrawn h ∧ (inputEffect i s).anim = animAfter s.anim h) ∨
      (inputEffect i s).anim = s.anim := by
  cases i with
  | notifyWalkerDrawn h => exact .inl ⟨h, rfl, rfl⟩
  | offerByte b =>
    right
    simp only [inputEffect]
    split
    · rw [State.setTxFlags_anim, instrEffect_anim]
    · rfl
  | setColorSprite id pixels width height => exact .inr (setColorSprite_anim id pixels width height s)
  | tick | queueDraw | setPin | writeByte | writeShort | peerSetsFlags => exact .inr rfl

/-- A step runs a waiting notification, or it leaves the animation state. -/
theorem step_anim {s t : State} (hstep : step s = .next t) :
    (∃ h rest, s.inputs = .notifyWalkerDrawn h :: rest ∧ t.anim = animAfter s.anim h) ∨ t.anim = s.anim := by
  obtain ⟨-, rfl⟩ | ⟨i, rest, hin, rfl⟩ := step_cases hstep
  · exact .inr rfl
  · obtain ⟨h, rfl, ha⟩ | ha := inputEffect_anim i { s with inputs := rest }
    · exact .inl ⟨h, rest, hin, ha⟩
    · exact .inr ha

/-- Settles O56: R98's three cases of `animAfter`, and a step that changes the animation state runs a notification. -/
theorem onlyChangedHashTogglesTheFrame : Obligations.OnlyChangedHashTogglesTheFrame := by
  refine ⟨fun h s => ⟨notifyWalkerDrawn h s, runInput_eq (.notifyWalkerDrawn h) s, rfl,
    fun hnone => animAfter_of_none hnone h, animAfter_of_same, fun last hlast hne => ?_⟩, fun s t hstep => ?_⟩
  · have ha : (notifyWalkerDrawn h s).anim = ⟨some h, 1 - s.anim.currentFrame⟩ := animAfter_of_changed hlast hne
    rw [ha]
    exact ⟨rfl, toggledFrame_val _⟩
  · obtain ⟨h, rest, hin, ha⟩ | ha := step_anim hstep
    · refine ⟨fun _ => ⟨h, rest, hin⟩, fun _ => ?_⟩
      rw [ha, animAfter_lastHash]
      exact Option.some_ne_none h
    · exact ⟨fun hne => absurd ha hne, fun hset => ha ▸ hset⟩

end Sys2Proof.Machine
end

section
/-!
PROOFS. The encoding: the decoder undoes the encoder on commands and on command streams, and the encoder undoes the decoder on
decode words and on byte streams.
-/

namespace Sys2Proof

/-- R61: the command a byte selects in a protocol state is well formed, is read in that state, and has that byte. -/
theorem decodeIn_spec (p : ProtocolState) (b : Byte) :
    (decodeIn p b).wellFormed = true ∧ (decodeIn p b).readIn = p ∧ encodeByte (decodeIn p b) = b := by
  cases p with
  | waiting => revert b; decide
  | awaitingContrast | awaitingPageOffset => exact ⟨rfl, rfl, rfl⟩

theorem stateOfCode_eq_some_iff {c : BitVec 2} {p : ProtocolState} : stateOfCode c = some p ↔ stateCode p = c := by
  revert c
  cases p <;> decide

theorem stateOfCode_eq_none_iff {c : BitVec 2} : stateOfCode c = none ↔ c = 0b11 := by
  revert c
  decide

theorem decodeWord_eq_none_iff {w : DecodeWord} : decodeWord w = none ↔ codeField w = 0b11 := by
  rw [decodeWord, Option.map_eq_none_iff, stateOfCode_eq_none_iff]

/-- R58: a decode word is its two fields. -/
theorem decodeWordOf_byteField {w : DecodeWord} {p : ProtocolState} (h : stateCode p = codeField w) :
    decodeWordOf p (byteField w) = w := by
  rw [decodeWordOf, h]
  calc
    codeField w ++ byteField w = w.extractLsb' 0 10 := BitVec.extractLsb'_append_extractLsb'_eq_extractLsb' rfl
    _ = w := BitVec.extractLsb'_eq_self

/-- Everything the decoder can read from a word: the command its byte selects in the state its code names. -/
theorem eq_of_decodeWord_eq_some {w : DecodeWord} {i : Instr} (h : decodeWord w = some i) :
    ∃ p b, decodeWordOf p b = w ∧ decodeIn p b = i := by
  obtain ⟨p, hp, hi⟩ := Option.map_eq_some_iff.1 h
  exact ⟨p, byteField w, decodeWordOf_byteField (stateOfCode_eq_some_iff.1 hp), hi⟩

/-- R68: the rows a word selects, by mnemonic: the one of the command it decodes to. -/
theorem mnemonics_of_selected_rows (p : ProtocolState) (b : Byte) :
    (opcodeRows.filter fun r => r.selects (decodeWordOf p b)).map OpcodeRow.mnemonic = [(decodeIn p b).mnemonic] := by
  revert b
  cases p <;> decide +kernel

theorem streamWellFormed_cons {p : ProtocolState} {i : Instr} {is : List Instr} :
    streamWellFormed p (i :: is) = true ↔ i.wellFormed = true ∧ i.readIn = p ∧ streamWellFormed i.leaves is = true := by
  simp [streamWellFormed, and_assoc]

/-- Settles O1: the word carries the state the command is read in, where its byte selects it. -/
theorem decodeOfEncodeIsTheCommand : Obligations.DecodeOfEncodeIsTheCommand := by
  intro i hi
  rw [encode, decodeWord_decodeWordOf, decodeIn_encodeByte hi]

/-- Settles O5, by induction on the command list: each command leaves the state the next one is read in. -/
theorem streamDecodesToItsCommands : Obligations.StreamDecodesToItsCommands := by
  intro p is
  induction is generalizing p with
  | nil => exact fun _ => rfl
  | cons i is ih =>
    intro h
    obtain ⟨hi, rfl, his⟩ := streamWellFormed_cons.1 h
    rw [List.map_cons, decodeStream, decodeIn_encodeByte hi, ih i.leaves his]

/-- Settles O6, by induction on the bytes: each byte selects a well-formed command of the state it is read in. -/
theorem everyStreamIsACommandStream : Obligations.EveryStreamIsACommandStream := by
  intro p bs
  induction bs generalizing p with
  | nil => exact ⟨rfl, rfl⟩
  | cons b bs ih =>
    obtain ⟨hwf, hread, hbyte⟩ := decodeIn_spec p b
    obtain ⟨hrest, hbytes⟩ := ih (decodeIn p b).leaves
    refine ⟨streamWellFormed_cons.2 ⟨hwf, hread, hrest⟩, ?_⟩
    rw [decodeStream, List.map_cons, hbyte, hbytes]

/-- Settles O3: the selected rows' mnemonics are a list of one, so the rows are. -/
theorem decodedWordSelectsOneTableRow : Obligations.DecodedWordSelectsOneTableRow := by
  intro w i h
  obtain ⟨p, b, rfl, rfl⟩ := eq_of_decodeWord_eq_some h
  obtain ⟨r, hr, hm⟩ := List.map_eq_singleton_iff.1 (mnemonics_of_selected_rows p b)
  exact ⟨r, hr, hm⟩

/-- Settles O2: the command read from a word has the word's byte and is read in the word's state. -/
theorem encodeOfDecodeIsTheWord : Obligations.EncodeOfDecodeIsTheWord := by
  intro w i h
  obtain ⟨p, b, rfl, rfl⟩ := eq_of_decodeWord_eq_some h
  obtain ⟨hwf, hread, hbyte⟩ := decodeIn_spec p b
  exact ⟨hwf, by rw [encode, hread, hbyte]⟩

/-- Settles O7: the decoder run on each word. -/
theorem wordsOfTheEncodingTableDecode : Obligations.WordsOfTheEncodingTableDecode := by
  unfold Obligations.WordsOfTheEncodingTableDecode
  decide

end Sys2Proof

namespace Sys2Proof.Machine

theorem runWord_of_some {w : DecodeWord} {i : Instr} (h : decodeWord w = some i) (s : State) : runWord w s = exec i s := by
  simp only [runWord, h]

theorem runWord_of_none {w : DecodeWord} (h : decodeWord w = none) (s : State) :
    runWord w s = .refused .reservedStateCode := by
  simp only [runWord, h]

/-- Settles O4: the decoder reads no command exactly from the reserved code, and every command runs to a next state. -/
theorem onlyReservedStateCodeIsRefused : Obligations.OnlyReservedStateCodeIsRefused := by
  intro w s
  simp only [ne_eq, ← decodeWord_eq_none_iff]
  cases h : decodeWord w with
  | none => simp [runWord_of_none h]
  | some i => simp [runWord_of_some h, exec_eq]

end Sys2Proof.Machine
end

section
/-!
PROOFS. A Transmit: what a command's effect may write and what it leaves, the protocol state it ends in, and a list of commands sent
as its bytes.
-/

namespace Sys2Proof

theorem encodeByte_colHi_toNat (n : BitVec 3) : (encodeByte (.colHi n)).toNat = 0x10 + n.toNat := by
  revert n
  decide

theorem encodeByte_page_toNat (n : BitVec 4) : (encodeByte (.page n)).toNat = 0xB0 + n.toNat := by
  revert n
  decide

/-- R83: the transition table, on the command a byte selects. -/
theorem leaves_decodeIn (p : ProtocolState) (b : Byte) :
    (decodeIn p b).leaves =
      if p = .waiting ∧ 0x40 ≤ b.toNat ∧ b.toNat ≤ 0x43 then .awaitingPageOffset
      else if p = .waiting ∧ b.toNat = 0x81 then .awaitingContrast
      else .waiting := by
  cases p with
  | waiting => revert b; decide
  | awaitingContrast | awaitingPageOffset => rfl

end Sys2Proof

namespace Sys2Proof.Machine

/-- R31, the Transmit row: a command's effect writes at most the seven fields named. -/
theorem instrEffect_frame (i : Instr) (s : State) :
    instrEffect i s = { s with
      column := (instrEffect i s).column, pageSelect := (instrEffect i s).pageSelect,
      pageOffset := (instrEffect i s).pageOffset, contrast := (instrEffect i s).contrast,
      powerSave := (instrEffect i s).powerSave, protocolState := (instrEffect i s).protocolState,
      subOffset := (instrEffect i s).subOffset } := by
  cases i <;> rfl

section
variable (i : Instr) (s : State)

@[simp] theorem instrEffect_catalog : (instrEffect i s).catalog = s.catalog := by rw [instrEffect_frame]
@[simp] theorem instrEffect_indexOut : (instrEffect i s).indexOut = s.indexOut := by rw [instrEffect_frame]
@[simp] theorem instrEffect_colorOut : (instrEffect i s).colorOut = s.colorOut := by rw [instrEffect_frame]
@[simp] theorem instrEffect_cfg : (instrEffect i s).cfg = s.cfg := by rw [instrEffect_frame]
@[simp] theorem instrEffect_ports : (instrEffect i s).ports = s.ports := by rw [instrEffect_frame]
@[simp] theorem instrEffect_mem : (instrEffect i s).mem = s.mem := by rw [instrEffect_frame]
@[simp] theorem instrEffect_outputs : (instrEffect i s).outputs = s.outputs := by rw [instrEffect_frame]

end

/-- R84: a command's effect does not depend on the compositor's fields. -/
theorem instrEffect_withCompositor (i : Instr) (s : State) (catalog : List (String × Sprite)) (queue : List DrawCommand)
    (anim : Anim) (idx : Option (Canvas (BitVec 2))) (col : Option (Canvas Argb)) :
    instrEffect i { s with catalog := catalog, queue := queue, anim := anim, indexOut := idx, colorOut := col } =
      { instrEffect i s with catalog := catalog, queue := queue, anim := anim, indexOut := idx, colorOut := col } := by
  cases i <;> rfl

/-- A command's effect does not depend on what the environment does next. -/
theorem instrEffect_withInputs (i : Instr) (s : State) (inputs : List Input) :
    instrEffect i { s with inputs := inputs } = { instrEffect i s with inputs := inputs } := by
  cases i <;> rfl

/-- R83: read where it belongs, a command leaves the state the table gives it. -/
theorem instrEffect_protocolState {i : Instr} {s : State} (h : s.protocolState = i.readIn) :
    (instrEffect i s).protocolState = i.leaves := by
  cases i with
  | pgofsPfx | contrastPfx | contrastArg | pgofsArg => rfl
  | colLo | colHi | page | psaveOn | psaveOff | ign => exact h

theorem eq_of_transmit {b : Byte} {s t : State} (h : transmit b s = .next t) :
    t = (instrEffect (decodeIn s.protocolState b) s).setTxFlags := by
  rw [transmit_eq] at h
  exact (Host.Outcome.next.inj h).symm

/-- R83: a Transmit leaves the state the table gives the command its byte selects. -/
theorem transmit_leaves (b : Byte) (s : State) :
    (instrEffect (decodeIn s.protocolState b) s).protocolState = (decodeIn s.protocolState b).leaves := by
  obtain ⟨-, hread, -⟩ := decodeIn_spec s.protocolState b
  exact instrEffect_protocolState hread.symm

theorem execAll_cons (i : Instr) (is : List Instr) (s : State) :
    execAll (i :: is) s = execAll is (instrEffect i s).setTxFlags := by
  simp only [execAll, exec_eq]

/-- R64: a legal command list sent as its bytes runs as its commands. -/
theorem transmitBytes_encodeByte {is : List Instr} {s : State} (h : streamWellFormed s.protocolState is = true) :
    transmitBytes (is.map encodeByte) s = execAll is s := by
  induction is generalizing s with
  | nil => rfl
  | cons i is ih =>
    obtain ⟨hi, hs, his⟩ := streamWellFormed_cons.1 h
    have hnext : (instrEffect i s).setTxFlags.protocolState = i.leaves := instrEffect_protocolState hs.symm
    rw [execAll_cons, ← ih (hnext ▸ his)]
    simp only [List.map_cons, transmitBytes, transmit_encodeByte hi hs.symm, exec_eq]

theorem columnWithHigh_toNat (c : BitVec 8) (n : BitVec 3) :
    (columnWithHigh c n).toNat = n.toNat * 16 + c.toNat % 16 := by
  have hn : n.toNat < 2 ^ 3 := n.isLt
  have hz : (n.zeroExtend 8).toNat = n.toNat := BitVec.toNat_setWidth_of_le (by decide)
  have hlow : (c &&& 0x0F).toNat = c.toNat % 2 ^ 4 := by
    rw [BitVec.toNat_and]
    exact Nat.and_two_pow_sub_one_eq_mod c.toNat 4
  have hhigh : (n.zeroExtend 8 <<< 4).toNat = 2 ^ 4 * n.toNat := by
    rw [BitVec.toNat_shiftLeft, hz, Nat.shiftLeft_eq]
    omega
  rw [columnWithHigh, BitVec.toNat_or, hhigh, hlow, ← Nat.two_pow_add_eq_or_of_lt (Nat.mod_lt _ (by decide))]
  omega

/-- R66: the two writes of `COL c`, whatever the register held (D3). -/
theorem columnWithHigh_columnWithLow (c : BitVec 8) (d : BitVec 7) :
    (columnWithHigh (columnWithLow c (d.extractLsb' 0 4)) (d.extractLsb' 4 3)).toNat = d.toNat := by
  have hd : d.toNat < 128 := d.isLt
  rw [columnWithHigh_toNat, columnWithLow_toNat, BitVec.extractLsb'_toNat, BitVec.extractLsb'_toNat,
    Nat.shiftRight_eq_div_pow, Nat.shiftRight_eq_div_pow]
  omega

/-- R66: the two bytes of `COL c` in the other order. -/
theorem columnWithLow_columnWithHigh (c : BitVec 8) (d : BitVec 7) :
    (columnWithLow (columnWithHigh c (d.extractLsb' 4 3)) (d.extractLsb' 0 4)).toNat = d.toNat := by
  have hd : d.toNat < 128 := d.isLt
  rw [columnWithLow_toNat, columnWithHigh_toNat, BitVec.extractLsb'_toNat, BitVec.extractLsb'_toNat,
    Nat.shiftRight_eq_div_pow, Nat.shiftRight_eq_div_pow]
  omega

/-- R66: `PGOFS p` sends `p` above three zero bits, which the division by 8 takes off. -/
theorem pageOffsetOf_append_zero (p : BitVec 5) : pageOffsetOf (p ++ (0 : BitVec 3)) = p := by
  revert p
  decide

/-- Settles O9: COL.HI's effect with `columnWithHigh` read as a number. -/
theorem colHiWritesHighColumnBits : Obligations.ColHiWritesHighColumnBits := by
  intro n s
  refine ⟨fun hs b hb => transmit_of_toNat_eq rfl hs ?_, _, exec_eq _ _, columnWithHigh_toNat s.column n, rfl⟩
  rw [hb, encodeByte_colHi_toNat]

/-- Settles O17: the state a Transmit leaves is the table's, and a parameter byte, read outside Waiting, leads back there. -/
theorem protocolStateFollowsTransitionTable : Obligations.ProtocolStateFollowsTransitionTable := by
  refine ⟨fun b s => ⟨_, transmit_eq b s, ?_⟩, fun b c s t u _ hu => ?_⟩
  · rw [State.setTxFlags_protocolState, transmit_leaves, leaves_decodeIn]
  · by_cases ht : t.protocolState = .waiting
    · exact .inl ht
    · right
      rw [eq_of_transmit hu, State.setTxFlags_protocolState, transmit_leaves, leaves_decodeIn, if_neg (by simp [ht]),
        if_neg (by simp [ht])]

/-- Settles O20: the byte selects the same command, whose effect does not depend on these fields. -/
theorem transmitNeitherReadsNorWritesTheCompositor : Obligations.TransmitNeitherReadsNorWritesTheCompositor := by
  intro b s t catalog queue anim idx col h
  rw [eq_of_transmit h, transmit_eq, instrEffect_withCompositor]
  rfl

/-- Settles O21: each expansion is a legal stream from Waiting, so its bytes run as its two commands. -/
theorem pseudoInstructionsSetTheirRegister : Obligations.PseudoInstructionsSetTheirRegister := by
  intro s hs
  have run (is : List Instr) (h : streamWellFormed .waiting is = true) :
      transmitBytes (is.map encodeByte) s = execAll is s := transmitBytes_encodeByte (hs ▸ h)
  refine ⟨fun c => ⟨⟨_, run (Pseudo.col c).expand rfl, columnWithHigh_columnWithLow s.column c, hs⟩, ?_⟩,
    fun v => ⟨_, run (Pseudo.contrast v).expand rfl, rfl, rfl⟩,
    fun p => ⟨_, run (Pseudo.pgofs p).expand rfl, pageOffsetOf_append_zero p, rfl⟩⟩
  rw [Pseudo.bytes, ← List.map_reverse]
  exact ⟨_, run (Pseudo.col c).expand.reverse rfl, columnWithLow_columnWithHigh s.column c, hs⟩

end Sys2Proof.Machine
end

section
/-!
PROOFS. The step: it runs the waiting input, so a run never stops and an offered command stream runs as its commands; what every step
keeps; what each operation writes.
-/

namespace Sys2Proof.Machine

/-! A byte is delivered where the chip-select pin is low (R69, R70). -/

theorem inputEffect_offerByte_of_csPinLow {s : State} (h : s.csPinLow) (b : Byte) :
    inputEffect (.offerByte b) s = (instrEffect (decodeIn s.protocolState b) s).setTxFlags :=
  if_pos ((canExecute_iff s).2 h)

theorem inputEffect_offerByte_of_not_csPinLow {s : State} (h : ¬ s.csPinLow) (b : Byte) :
    inputEffect (.offerByte b) s = s :=
  if_neg fun hopen => h ((canExecute_iff s).1 hopen)

/-- R70: an offered byte runs some command, or it does nothing. -/
theorem inputEffect_offerByte_cases (b : Byte) (s : State) :
    (∃ i, inputEffect (.offerByte b) s = (instrEffect i s).setTxFlags) ∨ inputEffect (.offerByte b) s = s := by
  by_cases h : s.csPinLow
  · exact .inl ⟨_, inputEffect_offerByte_of_csPinLow h b⟩
  · exact .inr (inputEffect_offerByte_of_not_csPinLow h b)

theorem step_of_nil {s : State} (h : s.inputs = []) : step s = .next s := by
  simp only [step, h]

theorem step_of_cons {s : State} {i : Input} {rest : List Input} (h : s.inputs = i :: rest) :
    step s = .next (inputEffect i { s with inputs := rest }) := by
  simp only [step, h, runInput_eq]

theorem eq_of_step_of_cons {s t : State} {i : Input} {rest : List Input} (h : s.inputs = i :: rest)
    (hstep : step s = .next t) : t = inputEffect i { s with inputs := rest } := by
  rw [step_of_cons h] at hstep
  exact (Host.Outcome.next.inj hstep).symm

/-- R69, R70: a byte waiting at an open gate runs the command it selects. -/
theorem step_of_delivered {s : State} {b : Byte} {rest : List Input} (h : s.inputs = .offerByte b :: rest)
    (hlow : s.csPinLow) :
    step s = .next { instrEffect (decodeIn s.protocolState b) s with inputs := rest }.setTxFlags := by
  have hlow' : ({ s with inputs := rest } : State).csPinLow := hlow
  rw [step_of_cons h, inputEffect_offerByte_of_csPinLow hlow', instrEffect_withInputs]

/-- R122: a step answers a next state. -/
theorem step_progress (s : State) : ∃ t, step s = .next t := by
  cases h : s.inputs with
  | nil => exact ⟨s, step_of_nil h⟩
  | cons i rest => exact ⟨_, step_of_cons h⟩

/-- What holds before a step holds after it if the effect of every input keeps it, whatever inputs are left. -/
theorem step_keeps {P : State → Prop}
    (hkeep : ∀ (i : Input) (rest : List Input) (s : State), P s → P (inputEffect i { s with inputs := rest }))
    {s t : State} (hs : P s) (hstep : step s = .next t) : P t := by
  obtain ⟨-, rfl⟩ | ⟨i, rest, -, rfl⟩ := step_cases hstep
  · exact hs
  · exact hkeep i rest s hs

/-- Settles O25, by induction on the number of steps. -/
theorem noRunEverStops : Obligations.NoRunEverStops := by
  intro k
  induction k with
  | zero => exact fun s => ⟨s, rfl⟩
  | succ k ih =>
    intro s
    obtain ⟨t, ht⟩ := step_progress s
    rw [run_succ_of_next ht]
    exact ih t

/-- Settles O24, by induction on the command list: a step delivers the first byte, which selects the first command, and leaves the
state in which the rest is legal. -/
theorem offeredStreamRunsItsCommands : Obligations.OfferedStreamRunsItsCommands := by
  intro is
  induction is with
  | nil =>
    intro s _ _ hin
    have hself : { s with inputs := [] } = s := by rw [← show s.inputs = [] from hin]
    rw [hself]
    rfl
  | cons i is ih =>
    intro s hwf hlow hin
    obtain ⟨hi, hread, his⟩ := streamWellFormed_cons.1 hwf
    have hstep := step_of_delivered hin hlow
    rw [← hread, decodeIn_encodeByte hi] at hstep
    rw [List.length_cons, run_succ_of_next hstep, execAll_cons, instrEffect_withInputs i s []]
    have hnext : (instrEffect i s).protocolState = i.leaves := instrEffect_protocolState hread.symm
    refine ih { instrEffect i s with inputs := is.map _ }.setTxFlags ?_ ?_ rfl
    · exact hnext ▸ his
    · simpa [State.csPinLow] using hlow

/-- Settles O22: the delivered byte runs the command it selects. -/
theorem stepRunsTheDecodedCommand : Obligations.StepRunsTheDecodedCommand := by
  intro s b rest i hin hlow hdec
  rw [decodeWord_decodeWordOf, Option.some.injEq] at hdec
  rw [step_of_delivered hin hlow, hdec, exec_eq, instrEffect_withInputs i s rest]

/-- Settles O23: the closed gate drops the byte. -/
theorem byteBehindClosedGateIsNotDelivered : Obligations.ByteBehindClosedGateIsNotDelivered := by
  intro s b rest hin hhigh
  have hhigh' : ¬ ({ s with inputs := rest } : State).csPinLow := hhigh
  rw [step_of_cons hin, inputEffect_offerByte_of_not_csPinLow hhigh']

/-! What each input keeps. -/

/-- R31: an upload writes the catalog and nothing else. -/
theorem setColorSprite_frame (id : String) (pixels : Option (List Argb)) (width height : Nat) (s : State) :
    setColorSprite id pixels width height s =
      { s with catalog := (setColorSprite id pixels width height s).catalog } := by
  cases pixels <;> rfl

theorem setColorSprite_keeps_sorted {s : State} (h : mapSorted s.catalog = true) (id : String)
    (pixels : Option (List Argb)) (width height : Nat) :
    mapSorted (setColorSprite id pixels width height s).catalog = true := by
  cases pixels with
  | none => exact h
  | some ps => exact mapInsert_keeps_sorted h id _

theorem State.canonical_iff {s : State} :
    s.canonical = true ↔ mapSorted s.catalog = true ∧ mapCanonical 0 s.ports = true ∧ Memory.wf s.mem = true := by
  simp [State.canonical, and_assoc]

/-- R11, R24, R45: every write to a map goes through an operation that keeps its canonical form. -/
theorem inputEffect_keeps_canonical (i : Input) {s : State} (h : s.canonical = true) :
    (inputEffect i s).canonical = true := by
  obtain ⟨hcat, hports, hmem⟩ := State.canonical_iff.1 h
  cases i with
  | offerByte b =>
    obtain ⟨i, he⟩ | he := inputEffect_offerByte_cases b s
    · simpa [he, State.canonical] using h
    · rwa [he]
  | setColorSprite id pixels width height =>
    rw [inputEffect, setColorSprite_frame]
    exact State.canonical_iff.2 ⟨setColorSprite_keeps_sorted hcat id pixels width height, hports, hmem⟩
  | setPin port pin level =>
    exact State.canonical_iff.2 ⟨hcat, portSetPin_keeps_canonical hports port pin level, hmem⟩
  | writeByte addr v => exact State.canonical_iff.2 ⟨hcat, hports, Memory.write_keeps_wf hmem addr v⟩
  | writeShort addr v => exact State.canonical_iff.2 ⟨hcat, hports, Memory.writeShort_keeps_wf hmem addr v⟩
  | tick | notifyWalkerDrawn | queueDraw | peerSetsFlags => exact h

theorem lastFrame_append_setTxFlags (os : List Output) : lastFrame (os ++ [.setTxFlags]) = lastFrame os := by
  induction os with
  | nil => rfl
  | cons o os ih => simp only [List.cons_append, lastFrame, ih]

theorem lastFrame_append_framePublished (os : List Output) (idx : Canvas (BitVec 2)) (col : Canvas Argb) :
    lastFrame (os ++ [.framePublished idx col]) = some (idx, col) := by
  induction os with
  | nil => rfl
  | cons o os ih => simp only [List.cons_append, lastFrame, ih]

/-- R94: a Tick publishes the pair it stores. -/
theorem tick_buffersAreLastFrame (s : State) : (tick s).buffersAreLastFrame := by
  simp [State.buffersAreLastFrame, lastFrame_append_framePublished]

/-- R28: a command emits no frame and leaves the buffers. -/
theorem setTxFlags_instrEffect_keeps_buffers (i : Instr) {s : State} (h : s.buffersAreLastFrame) :
    (instrEffect i s).setTxFlags.buffersAreLastFrame := by
  simpa [State.buffersAreLastFrame, lastFrame_append_setTxFlags] using h

/-- R28, R94: only a Tick publishes a frame, and only a Tick writes the buffers. -/
theorem inputEffect_keeps_buffersAreLastFrame (i : Input) {s : State} (h : s.buffersAreLastFrame) :
    (inputEffect i s).buffersAreLastFrame := by
  cases i with
  | offerByte b =>
    obtain ⟨i, he⟩ | he := inputEffect_offerByte_cases b s
    · exact he ▸ setTxFlags_instrEffect_keeps_buffers i h
    · rwa [he]
  | setColorSprite id pixels width height =>
    rw [inputEffect, setColorSprite_frame]
    exact h
  | tick => exact tick_buffersAreLastFrame s
  | notifyWalkerDrawn | queueDraw | setPin | writeByte | writeShort | peerSetsFlags => exact h

/-- R15: COL.LO keeps the high bits, COL.HI writes three of them and clears the top one (D3). -/
theorem instrEffect_keeps_columnReachable (i : Instr) {s : State} (h : s.columnReachable) :
    (instrEffect i s).columnReachable := by
  unfold State.columnReachable at h ⊢
  cases i with
  | colLo n =>
    have hn : n.toNat < 16 := n.isLt
    have hcol : (instrEffect (.colLo n) s).column.toNat = _ := columnWithLow_toNat s.column n
    omega
  | colHi n =>
    have hn : n.toNat < 8 := n.isLt
    have hcol : (instrEffect (.colHi n) s).column.toNat = _ := columnWithHigh_toNat s.column n
    omega
  | pgofsPfx | contrastPfx | page | psaveOn | psaveOff | contrastArg | pgofsArg | ign => exact h

theorem inputEffect_keeps_columnReachable (i : Input) {s : State} (h : s.columnReachable) :
    (inputEffect i s).columnReachable := by
  cases i with
  | offerByte b =>
    obtain ⟨i, he⟩ | he := inputEffect_offerByte_cases b s
    · rw [he]
      exact instrEffect_keeps_columnReachable i h
    · rwa [he]
  | setColorSprite id pixels width height =>
    rw [inputEffect, setColorSprite_frame]
    exact h
  | tick | notifyWalkerDrawn | queueDraw | setPin | writeByte | writeShort | peerSetsFlags => exact h

/-- R29, R30. -/
theorem inputEffect_cfg (i : Input) (s : State) : (inputEffect i s).cfg = s.cfg := by
  cases i with
  | offerByte b =>
    obtain ⟨i, he⟩ | he := inputEffect_offerByte_cases b s
    · rw [he, State.setTxFlags_cfg, instrEffect_cfg]
    · rw [he]
  | setColorSprite id pixels width height => rw [inputEffect, setColorSprite_frame]
  | tick | notifyWalkerDrawn | queueDraw | setPin | writeByte | writeShort | peerSetsFlags => rfl

/-- R83: an input leaves the protocol state, unless it is a byte delivered through the open gate. -/
theorem inputEffect_protocolState (i : Input) (s : State) :
    (inputEffect i s).protocolState = s.protocolState ∨ s.csPinLow ∧ ∃ b, i = .offerByte b := by
  cases i with
  | offerByte b =>
    by_cases h : s.csPinLow
    · exact .inr ⟨h, b, rfl⟩
    · rw [inputEffect_offerByte_of_not_csPinLow h]
      exact .inl rfl
  | setColorSprite id pixels width height =>
    rw [inputEffect, setColorSprite_frame]
    exact .inl rfl
  | tick | notifyWalkerDrawn | queueDraw | setPin | writeByte | writeShort | peerSetsFlags => exact .inl rfl

/-- R71: but for the peer's own write, an input sets both flags or leaves both. -/
theorem inputEffect_busFlags {i : Input} (hi : ∀ f, i ≠ .peerSetsFlags f) (s : State) :
    (inputEffect i s).busFlags = ⟨true, true⟩ ∨ (inputEffect i s).busFlags = s.busFlags := by
  cases i with
  | offerByte b =>
    obtain ⟨i, he⟩ | he := inputEffect_offerByte_cases b s
    · exact .inl (by rw [he, State.setTxFlags_busFlags])
    · exact .inr (by rw [he])
  | setColorSprite id pixels width height =>
    rw [inputEffect, setColorSprite_frame]
    exact .inr rfl
  | peerSetsFlags f => exact absurd rfl (hi f)
  | tick | notifyWalkerDrawn | queueDraw | setPin | writeByte | writeShort => exact .inr rfl

/-! The four registers that nothing reads (R15, R16, R18, R21). -/

theorem instrEffect_withoutUnread (i : Instr) (s : State) :
    (instrEffect i s).withoutUnread = (instrEffect i s.withoutUnread).withoutUnread := by
  cases i <;> rfl

theorem tick_withoutUnread (s : State) : (tick s).withoutUnread = tick s.withoutUnread := by
  have hidx : baseIndices s.withoutUnread = baseIndices s := baseIndices_congr rfl rfl rfl rfl rfl
  have hcol (idx : Canvas (BitVec 2)) : frameColors s.withoutUnread idx = frameColors s idx :=
    frameColors_congr rfl rfl rfl rfl rfl idx
  simp only [tick, hidx, hcol]
  rfl

theorem setColorSprite_withoutUnread (id : String) (pixels : Option (List Argb)) (width height : Nat) (s : State) :
    (setColorSprite id pixels width height s).withoutUnread = setColorSprite id pixels width height s.withoutUnread := by
  cases pixels <;> rfl

theorem withoutUnread_withoutUnread (s : State) : s.withoutUnread.withoutUnread = s.withoutUnread := rfl

/-- D22, D4: what an input does outside the four registers is a function of the state outside them. -/
theorem inputEffect_withoutUnread (i : Input) (s : State) :
    (inputEffect i s).withoutUnread = (inputEffect i s.withoutUnread).withoutUnread := by
  cases i with
  | offerByte b =>
    by_cases h : s.csPinLow
    · have h' : s.withoutUnread.csPinLow := h
      rw [inputEffect_offerByte_of_csPinLow h, inputEffect_offerByte_of_csPinLow h']
      exact congrArg State.setTxFlags (instrEffect_withoutUnread _ s)
    · have h' : ¬ s.withoutUnread.csPinLow := h
      rw [inputEffect_offerByte_of_not_csPinLow h, inputEffect_offerByte_of_not_csPinLow h']
      rfl
  | tick =>
    simp only [inputEffect, tick_withoutUnread, withoutUnread_withoutUnread]
  | setColorSprite id pixels width height =>
    simp only [inputEffect, setColorSprite_withoutUnread, withoutUnread_withoutUnread]
  | notifyWalkerDrawn | queueDraw | setPin | writeByte | writeShort | peerSetsFlags => rfl

theorem inputEffect_withoutUnread_congr (i : Input) {s s' : State} (h : s.withoutUnread = s'.withoutUnread) :
    (inputEffect i s).withoutUnread = (inputEffect i s').withoutUnread := by
  rw [inputEffect_withoutUnread, h, ← inputEffect_withoutUnread]

/-- D22: a Tick emits the same where only unread registers differ. -/
theorem outputs_of_runInput_tick_congr {s s' t t' : State} (h : s.withoutUnread = s'.withoutUnread)
    (ht : runInput .tick s = .next t) (ht' : runInput .tick s' = .next t') : t'.outputs = t.outputs := by
  rw [eq_inputEffect_of_runInput ht, eq_inputEffect_of_runInput ht']
  exact (congrArg State.outputs (inputEffect_withoutUnread_congr .tick h.symm) :)

/-- Settles O29: every input keeps the canonical form. -/
theorem stepKeepsCanonicalForm : Obligations.StepKeepsCanonicalForm :=
  fun _ _ => step_keeps (P := fun s => s.canonical = true) fun i rest s hs =>
    inputEffect_keeps_canonical i (s := { s with inputs := rest }) hs

/-- Settles O30: every input keeps the buffers those of the last frame. -/
theorem stepKeepsBuffersTheLastFrame : Obligations.StepKeepsBuffersTheLastFrame :=
  fun _ _ => step_keeps fun i rest s hs =>
    inputEffect_keeps_buffersAreLastFrame i (s := { s with inputs := rest }) hs

/-- Settles O31: every input keeps the column below 128. -/
theorem stepKeepsColumnReachable : Obligations.StepKeepsColumnReachable :=
  fun _ _ => step_keeps fun i rest s hs => inputEffect_keeps_columnReachable i (s := { s with inputs := rest }) hs

/-- Settles O32: every input keeps the parameters. -/
theorem noStepWritesTheParameters : Obligations.NoStepWritesTheParameters :=
  fun s _ => step_keeps (P := fun u => u.cfg = s.cfg) (fun i _ _ hu => (inputEffect_cfg i _).trans hu) rfl

/-- Settles O33: both states have the same inputs, and the first one's effect agrees outside the four registers. -/
theorem unreadRegistersAffectNoOutput : Obligations.UnreadRegistersAffectNoOutput := by
  intro s s' t t' h ht ht'
  have hin : s.inputs = s'.inputs := (congrArg State.inputs h :)
  obtain ⟨hnil, rfl⟩ | ⟨i, rest, hcons, rfl⟩ := step_cases ht
  · rw [step_of_nil (hin ▸ hnil)] at ht'
    cases ht'
    exact h
  · rw [eq_of_step_of_cons (hin ▸ hcons) ht']
    exact inputEffect_withoutUnread_congr i (congrArg (fun u : State => { u with inputs := rest }) h :)

/-- Settles O12: PAGE's byte and effect; `pageSelect` is an unread register. -/
theorem pageWritesPageSelect : Obligations.PageWritesPageSelect := by
  intro n s
  refine ⟨fun hs b hb => transmit_of_toNat_eq rfl hs ?_, exec_eq _ _, fun t u => outputs_of_runInput_tick_congr rfl⟩
  rw [hb, encodeByte_page_toNat]

/-- Settles O14: CONTRAST.ARG's effect; `contrast` is an unread register. -/
theorem contrastArgWritesContrast : Obligations.ContrastArgWritesContrast :=
  fun v _ => ⟨transmit_encodeByte (i := .contrastArg v) rfl, exec_eq _ _, fun _ _ => outputs_of_runInput_tick_congr rfl⟩

/-- Settles O18: the step's input is the one that moved the state. -/
theorem onlyDeliveredBytesMoveProtocolState : Obligations.OnlyDeliveredBytesMoveProtocolState := by
  intro s t hstep hne
  obtain ⟨-, rfl⟩ | ⟨i, rest, hin, rfl⟩ := step_cases hstep
  · exact absurd rfl hne
  · obtain hsame | ⟨hlow, b, rfl⟩ := inputEffect_protocolState i { s with inputs := rest }
    · exact absurd hsame hne
    · exact ⟨hlow, b, rest, hin⟩

/-- Settles O19: a Transmit ends in `setTxFlags`, and no other input but the peer's touches the flags. -/
theorem everyByteSetsBothBusFlags : Obligations.EveryByteSetsBothBusFlags := by
  refine ⟨fun b s => ⟨_, transmit_eq b s, rfl, ?_⟩, fun i s t hi ht => ?_⟩
  · rw [State.setTxFlags_outputs, instrEffect_outputs]
  · rw [eq_inputEffect_of_runInput ht]
    obtain h | h := inputEffect_busFlags hi s
    · simp [h]
    · simp [h]

/-- R69: the gate's formula is the level of one pin. -/
theorem State.csPinLow_iff_testBit (s : State) :
    s.csPinLow ↔ (portRead s.ports s.cfg.csPort).testBit s.cfg.csPin = false := by
  simp [State.csPinLow, Nat.testBit, Nat.and_comm]

/-- R67, R69: the level given to the chip-select pin is the gate's. -/
theorem csPinLow_portSetPin_iff {s : State} (h : mapCanonical 0 s.ports = true) (level : Bool) :
    ({ s with ports := portSetPin s.ports s.cfg.csPort s.cfg.csPin level } : State).csPinLow ↔ level = false := by
  simp [State.csPinLow_iff_testBit, portSetPin_changes_one_pin h]

/-- Settles O26: each operation's effect is an update of the fields its row names. -/
theorem operationsWriteOnlyTheirFields : Obligations.OperationsWriteOnlyTheirFields := by
  refine ⟨fun b s t h => ?transmit, fun s => ⟨_, runInput_eq .tick s, rfl⟩,
    fun h s => ⟨_, runInput_eq (.notifyWalkerDrawn h) s, rfl⟩,
    fun id px w h s => ⟨_, runInput_eq (.setColorSprite id px w h) s, setColorSprite_frame id px w h s⟩,
    fun cmd s => ⟨_, runInput_eq (.queueDraw cmd) s, rfl⟩,
    fun port pin level s => ⟨_, runInput_eq (.setPin port pin level) s, rfl, fun hports => ⟨?pins, ?gate⟩⟩,
    fun addr v s => ⟨_, runInput_eq (.writeByte addr v) s, rfl⟩,
    fun addr v s => ⟨_, runInput_eq (.writeShort addr v) s, rfl⟩, fun f s => runInput_eq (.peerSetsFlags f) s⟩
  case transmit =>
    rw [eq_of_transmit h, instrEffect_frame]
    rfl
  case pins => exact fun port' pin' => portSetPin_changes_one_pin hports port pin port' pin' level
  case gate =>
    rintro rfl rfl
    exact csPinLow_portSetPin_iff hports level

/-- Settles O27: reset, field by field. -/
theorem resetLeavesTheRuledValues : Obligations.ResetLeavesTheRuledValues :=
  ⟨fun _ => ⟨rfl, rfl, rfl, rfl, rfl, rfl, rfl, rfl, rfl, rfl, rfl, rfl, rfl⟩, rfl, rfl⟩

/-- Settles O28: the maps are empty, nothing is published, and the column is the reset value 0 (D2). -/
theorem resetMeetsTheInvariants : Obligations.ResetMeetsTheInvariants := by
  refine ⟨State.canonical_iff.2 ⟨rfl, rfl, Memory.wf_nil⟩, ⟨rfl, rfl⟩, ?_⟩
  change (0 : BitVec 8).toNat < 128
  decide

end Sys2Proof.Machine
end

section
/-!
PROOFS. Memory, VRAM and the base pass: firmware writes read back, the decode of a pixel from its two bytes, the reads a Tick makes,
and when two Ticks publish the same indices.
-/

namespace Sys2Proof.Machine

/-! The memory interface. -/

/-- R45, R48. -/
theorem Memory.read_write {m : List Host.Cell} (h : Memory.wf m = true) (a b : Nat) (v : Byte) :
    Memory.read (Memory.write m a v) b = if b = a then v else Memory.read m b := mapRead_mapWrite h a b v

theorem lowByte_toNat (v : BitVec 16) : (v.extractLsb' 0 8).toNat = v.toNat % 256 := by
  rw [BitVec.extractLsb'_toNat, Nat.shiftRight_zero]

theorem highByte_toNat (v : BitVec 16) : (v.extractLsb' 8 8).toNat = v.toNat / 256 := by
  have hv : v.toNat < 2 ^ 16 := v.isLt
  rw [BitVec.extractLsb'_toNat, Nat.shiftRight_eq_div_pow]
  omega

/-- R43: the 16-bit write is little-endian. -/
theorem Memory.read_writeShort_toNat {m : List Host.Cell} (h : Memory.wf m = true) (a b : Nat) (v : BitVec 16) :
    (Memory.read (Memory.writeShort m a v) b).toNat =
      if b = a then v.toNat % 256 else if b = a + 1 then v.toNat / 256 else (Memory.read m b).toNat := by
  rw [Memory.writeShort, Memory.read_write (Memory.write_keeps_wf h a _), Memory.read_write h]
  by_cases hlow : b = a
  · rw [if_neg (by omega), if_pos hlow, if_pos hlow, lowByte_toNat]
  · by_cases hhigh : b = a + 1
    · rw [if_pos hhigh, if_neg hlow, if_pos hhigh, highByte_toNat]
    · rw [if_neg hhigh, if_neg hlow, if_neg hlow, if_neg hhigh]

/-- Settles O34: the two writes, read back from a memory in canonical form. -/
theorem memoryWritesReadBack : Obligations.MemoryWritesReadBack :=
  fun _ a b h => ⟨fun v => ⟨runInput_eq (.writeByte a v) _, Memory.read_write h a b v⟩,
    fun v => ⟨runInput_eq (.writeShort a v) _, Memory.read_writeShort_toNat h a b v⟩⟩

/-! The decode of a pixel. -/

/-- R87, with TOTAL_COLUMNS written out. -/
theorem baseIndex_eq (o : BitVec 5) (x y : Nat) : baseIndex o x y = 2 * x + (y / 8 + o.toNat) * 510 := by
  rw [baseIndex, totalColumns]
  omega

/-- R87 to R89: without power save a Tick publishes the decoded index. -/
theorem baseIndices_get_of_not_powerSave {s : State} (h : s.powerSave = false) (x : Fin canvasW) (y : Fin canvasH) :
    Canvas.get (baseIndices s) x y = paletteIndex s x y := by
  rw [baseIndices_get, h]
  rfl

/-- R88: the index of a pixel as a number. -/
theorem paletteIndex_toNat (s : State) (x y : Nat) :
    (paletteIndex s x y).toNat =
      2 * ((vramRead s.cfg s.mem (baseIndex s.pageOffset x y) (s.vramReads + readNumber x y)).toNat / 2 ^ (y % 8) % 2) +
        (vramRead s.cfg s.mem (baseIndex s.pageOffset x y + 1) (s.vramReads + readNumber x y + 1)).toNat /
          2 ^ (y % 8) % 2 :=
  combinePlanes_toNat _ _ _

/-- R45, R88: the index of a pixel backed by VRAM is decoded from two bytes of memory. -/
theorem paletteIndex_of_backed {s : State} {x y : Nat} (h : baseIndex s.pageOffset x y + 1 < s.cfg.vramBytes) :
    paletteIndex s x y =
      combinePlanes (Memory.read s.mem (s.cfg.vramBase + baseIndex s.pageOffset x y))
        (Memory.read s.mem (s.cfg.vramBase + (baseIndex s.pageOffset x y + 1))) (y % 8) := by
  rw [paletteIndex, vramRead_backed h, vramRead_backed (Nat.lt_of_succ_lt h)]

/-- Settles O35: the two reads are numbered as `readNumber` counts them. -/
theorem tickDecodesTheBitplanes : Obligations.TickDecodesTheBitplanes := by
  intro s x y hps
  refine ⟨tick s, baseIndices s, s.vramReads + readNumber x y, s.vramReads + readNumber x y + 1, rfl,
    State.tick_indexOut s, ?_⟩
  rw [baseIndices_get_of_not_powerSave hps, paletteIndex_toNat, baseIndex_eq]

/-- Settles O36: both reads of an unbacked pixel draw. -/
theorem vramReadsAreMemoryOrDraws : Obligations.VramReadsAreMemoryOrDraws := by
  refine ⟨fun cfg mem i n h => vramRead_backed h mem n, fun s x y mem hps hun => ?_⟩
  refine ⟨_, _, runInput_eq .tick { s with mem := mem }, State.tick_indexOut _, ?_⟩
  have hps' : ({ s with mem := mem } : State).powerSave = false := hps
  rw [baseIndices_get_of_not_powerSave hps', paletteIndex_toNat, vramRead_unbacked hun,
    vramRead_unbacked (Nat.le_succ_of_le hun)]
  rfl

/-- Settles O38: one page more is eight rows down, and the pixel is backed in both places. -/
theorem pageOffsetScrollsByWholePages : Obligations.PageOffsetScrollsByWholePages := by
  intro s x y y' o o' hps hy ho hb
  have hbase : baseIndex o' x y = baseIndex o x y' := by
    rw [baseIndex_eq, baseIndex_eq]
    omega
  have hbit : y.val % 8 = y'.val % 8 := by omega
  refine ⟨_, _, _, _, runInput_eq .tick { s with pageOffset := o' }, State.tick_indexOut _,
    runInput_eq .tick { s with pageOffset := o }, State.tick_indexOut _, ?_⟩
  have hps' (p : BitVec 5) : ({ s with pageOffset := p } : State).powerSave = false := hps
  rw [baseIndices_get_of_not_powerSave (hps' o'), baseIndices_get_of_not_powerSave (hps' o),
    paletteIndex_of_backed (s := { s with pageOffset := o' }) hb,
    paletteIndex_of_backed (s := { s with pageOffset := o }) (hbase ▸ hb), hbase, hbit]

/-! The reads of a Tick. -/

theorem vramIndicesRead_length (s : State) : (vramIndicesRead s).length = basePassReads s := by
  unfold vramIndicesRead basePassReads
  split
  · rfl
  · simp [List.length_flatMap, readsPerTick, canvasW, canvasH]

/-- R49: the pages are 0..38, so the last byte read is the second one of column 95 on page 38. -/
theorem le_of_mem_vramIndicesRead {s : State} {i : Nat} (h : i ∈ vramIndicesRead s) : i ≤ 19571 := by
  unfold vramIndicesRead at h
  split at h
  · cases h
  · simp only [List.mem_flatMap, List.mem_range, List.mem_cons, List.not_mem_nil, or_false, baseIndex_eq,
      canvasW, canvasH] at h
    obtain ⟨y, hy, x, hx, hi⟩ := h
    have ho : s.pageOffset.toNat < 32 := s.pageOffset.isLt
    omega

/-- Settles O37: the counter advances by the number of indices read. -/
theorem tickCountsItsVramReads : Obligations.TickCountsItsVramReads := by
  intro s
  refine ⟨tick s, rfl, ?_, vramIndicesRead_length s, fun i => le_of_mem_vramIndicesRead, State.tick_mem s⟩
  rw [State.tick_vramReads, vramIndicesRead_length]

/-! Ticks that publish the same. -/

/-- R92: the number of reads already made shows only in pixels that no VRAM backs. -/
theorem baseIndices_congr_of_backed {s t : State} (hp : s.powerSave = t.powerSave) (ho : s.pageOffset = t.pageOffset)
    (hc : s.cfg = t.cfg) (hm : s.mem = t.mem) (h : s.powerSave = true ∨ ∀ x y, s.pixelBacked x y) :
    baseIndices s = baseIndices t := by
  refine Canvas.ext_get fun x y => ?_
  rw [baseIndices_get, baseIndices_get, ← hp]
  obtain hps | hback := h
  · rw [if_pos hps, if_pos hps]
  · have hs : baseIndex s.pageOffset x y + 1 < s.cfg.vramBytes := hback x y
    rw [paletteIndex_of_backed hs, paletteIndex_of_backed (hc ▸ ho ▸ hs), ho, hc, hm]

/-- R85, R94: the colours a Tick publishes. -/
theorem colorOut_of_runInput_tick {s t : State} (h : runInput .tick s = .next t) :
    t.colorOut = some (frameColors s (baseIndices s)) := by
  rw [eq_inputEffect_of_runInput h]
  exact State.tick_colorOut s

/-- Settles O44: the first Tick changes none of the fields the second one reads, but the queue, which is empty already, and the
number of reads. -/
theorem repeatedTickPublishesTheSameFrame : Obligations.RepeatedTickPublishesTheSameFrame := by
  intro s t u hq hback ht hu
  obtain rfl : t = tick s := eq_inputEffect_of_runInput ht
  have hidx : baseIndices s = baseIndices (tick s) :=
    baseIndices_congr_of_backed (State.tick_powerSave s).symm (State.tick_pageOffset s).symm (State.tick_cfg s).symm
      (State.tick_mem s).symm hback
  rw [indexOut_of_runInput_tick hu, colorOut_of_runInput_tick hu, ← hidx, frameColors_of_queue_nil (State.tick_queue s),
    State.tick_indexOut, State.tick_colorOut, frameColors_of_queue_nil hq, State.tick_cfg]
  exact ⟨rfl, rfl⟩

/-- Settles O43: the pair a Tick stores is the one it appends to the outputs. -/
theorem tickPublishesOneFrame : Obligations.TickPublishesOneFrame :=
  fun s => ⟨tick s, _, _, runInput_eq .tick s, State.tick_indexOut s, State.tick_colorOut s, State.tick_outputs s⟩

/-! The flat canvas. -/

/-- A canvas handed over flat is the flattening of its rows. -/
theorem Canvas.flat_eq_flatten {α : Type} (v : Canvas α) : Canvas.flat v = (Vector.flatten v).toList := by
  change _ = (v.toArray.map Vector.toArray).flatten.toList
  rw [Array.toList_flatten, Array.toList_map, List.map_map]
  rfl

/-- Settles O55: position `y*96 + x` of the flattening is element `x` of row `y`. -/
theorem flatCanvasIsRowMajor : Obligations.FlatCanvasIsRowMajor := by
  intro c x y
  have hx : x.val < 96 := x.isLt
  have hy : y.val < 64 := y.isLt
  have hrow : (y.val * 96 + x.val) / 96 = y.val := by omega
  have hcol : (y.val * 96 + x.val) % 96 = x.val := by omega
  have hpos : y.val * 96 + x.val < 64 * 96 := by omega
  rw [Canvas.flat_eq_flatten]
  refine ⟨Vector.length_toList, ?_⟩
  rw [Vector.getElem?_toList, Vector.getElem?_eq_getElem hpos, Vector.getElem_flatten]
  simp only [hrow, hcol]
  rfl

end Sys2Proof.Machine
end

section
/-!
PROOFS. Notifications, uploads and queuing.
-/

namespace Sys2Proof.Machine

/-- R145: toggling twice gives the frame back. -/
theorem toggledFrame_toggledFrame (f : Fin 2) : 1 - (1 - f) = f := by
  revert f
  decide

/-- R145: with `a` stored, a notification of another hash is undone by one of `a`. -/
theorem animAfter_animAfter {x : Anim} {a : BitVec 32} (hx : x.lastHash = some a) (b : BitVec 32) :
    animAfter (animAfter x b) a = x := by
  by_cases hne : b = a
  · rw [hne, animAfter_of_same hx, animAfter_of_same hx]
  · rw [animAfter_of_changed hx hne, animAfter_of_changed rfl (Ne.symm hne), toggledFrame_toggledFrame, ← hx]

/-- Settles O57: a notification writes the animation state alone. -/
theorem twoTogglesCancel : Obligations.TwoTogglesCancel := by
  intro a b s t u ha ht hu
  obtain rfl : t = notifyWalkerDrawn b s := eq_inputEffect_of_runInput ht
  obtain rfl : u = notifyWalkerDrawn a (notifyWalkerDrawn b s) := eq_inputEffect_of_runInput hu
  simp only [notifyWalkerDrawn, animAfter_animAfter ha]

/-- Settles O58: an upload inserts into the catalog's map. -/
theorem uploadReplacesOneEntryWholesale : Obligations.UploadReplacesOneEntryWholesale :=
  fun id id' px w h s => ⟨runInput_eq (.setColorSprite id none w h) s, _,
    runInput_eq (.setColorSprite id (some px) w h) s, rfl, mapFind_mapInsert s.catalog id id' ⟨px, w, h⟩⟩

/-- Settles O59: queuing always runs, and its effect is the append. -/
theorem queueDrawAppendsAtTheTail : Obligations.QueueDrawAppendsAtTheTail :=
  fun cmd s => runInput_eq (.queueDraw cmd) s

/-- An upload does not depend on the queue, nor queuing on the catalog. -/
theorem setColorSprite_queueDraw (id : String) (pixels : Option (List Argb)) (width height : Nat) (cmd : DrawCommand)
    (s : State) : setColorSprite id pixels width height (queueDraw cmd s) =
      queueDraw cmd (setColorSprite id pixels width height s) := by
  cases pixels <;> rfl

/-- Settles O60: queuing commutes with an upload and with a notification, so the Tick starts from the same state. -/
theorem lookupsAreMadeAtTheTick : Obligations.LookupsAreMadeAtTheTick := by
  intro cmd i s t t' u u' hi ht hu ht' hu'
  obtain rfl := eq_inputEffect_of_runInput ht
  obtain rfl := eq_inputEffect_of_runInput hu
  obtain rfl := eq_inputEffect_of_runInput ht'
  obtain rfl := eq_inputEffect_of_runInput hu'
  obtain ⟨id, px, w, h, rfl⟩ | ⟨h, rfl⟩ := hi
  · exact congrArg (runInput .tick) (setColorSprite_queueDraw id px w h cmd s)
  · rfl

end Sys2Proof.Machine
end

section
/-!
PROOFS. The compositor: which canvas pixels a command writes and with what, the queue as a whole, and R105's double loop.
-/

namespace Sys2Proof.Machine

/-! Local pixels (R108 to R110). -/

theorem localPixel_eq_some_iff {cmd : DrawCommand} {x y lx ly : Nat} :
    localPixel cmd x y = some (lx, ly) ↔
      (cmd.destX + lx = x ∧ lx < cmd.destWidth) ∧ cmd.destY + ly = y ∧ ly < cmd.destHeight := by
  simp only [localPixel]
  split
  · simp only [Option.some.injEq, Prod.mk.injEq]
    omega
  · simp only [reduceCtorEq, false_iff]
    omega

theorem localPixel_eq_none_of_outside {cmd : DrawCommand} {x y : Nat}
    (h : (x : Int) < cmd.destX ∨ cmd.destX + cmd.destWidth ≤ x ∨ (y : Int) < cmd.destY ∨
      cmd.destY + cmd.destHeight ≤ y) : localPixel cmd x y = none := by
  simp only [localPixel]
  rw [if_neg (by omega)]

/-! The walker and the frame (R97, R106, R107, R111). -/

theorem isWalker_iff {cfg : Config} {cmd : DrawCommand} : isWalker cfg cmd = true ↔ cmd.spriteId = cfg.walkerId := by
  simp [isWalker]

theorem effectiveFrame_isWalker (cfg : Config) (anim : Anim) (cmd : DrawCommand) :
    effectiveFrame anim cmd (isWalker cfg cmd) =
      if cmd.spriteId = cfg.walkerId then anim.currentFrame.val else cmd.explicitFrameIndex := by
  simp only [effectiveFrame, isWalker_iff]

theorem frameHeight_isWalker (cfg : Config) (cmd : DrawCommand) (sp : Sprite) :
    frameHeight sp (isWalker cfg cmd) = if cmd.spriteId = cfg.walkerId then sp.height / 2 else sp.height := by
  simp only [frameHeight, frameCount, isWalker_iff]
  split
  · rfl
  · exact Nat.div_one _

/-- The sprite row a local row is read at (R112). -/
def spriteRow (cfg : Config) (anim : Anim) (cmd : DrawCommand) (sp : Sprite) (ly : Nat) : Nat :=
  effectiveFrame anim cmd (isWalker cfg cmd) * frameHeight sp (isWalker cfg cmd) + ly

theorem spriteRow_eq (cfg : Config) (anim : Anim) (cmd : DrawCommand) (sp : Sprite) (ly : Nat) :
    spriteRow cfg anim cmd sp ly =
      (if cmd.spriteId = cfg.walkerId then anim.currentFrame.val else cmd.explicitFrameIndex) *
        (if cmd.spriteId = cfg.walkerId then sp.height / 2 else sp.height) + ly := by
  rw [spriteRow, effectiveFrame_isWalker, frameHeight_isWalker]

theorem spriteRow_of_walker {cfg : Config} {cmd : DrawCommand} (h : cmd.spriteId = cfg.walkerId) (anim : Anim)
    (sp : Sprite) (ly : Nat) : spriteRow cfg anim cmd sp ly = anim.currentFrame.val * (sp.height / 2) + ly := by
  rw [spriteRow_eq, if_pos h, if_pos h]

theorem spriteRow_of_other {cfg : Config} {cmd : DrawCommand} (h : cmd.spriteId ≠ cfg.walkerId) (anim : Anim)
    (sp : Sprite) (ly : Nat) : spriteRow cfg anim cmd sp ly = cmd.explicitFrameIndex * sp.height + ly := by
  rw [spriteRow_eq, if_neg h, if_neg h]

/-! The bounds check and the pixel's write (R113 to R116). -/

theorem inBounds_rect_iff {sp : Sprite} {row c : Nat} :
    inBounds .rect sp row c = true ↔ c < sp.width ∧ row < sp.height ∧ row * sp.width + c < sp.pixels.length := by
  simp [inBounds, and_assoc]

theorem inBounds_linear_iff {sp : Sprite} {row c : Nat} :
    inBounds .linear sp row c = true ↔ row * sp.width + c < sp.pixels.length := by
  simp [inBounds]

/-- R113: by either check, an in-bounds pixel is in the buffer. -/
theorem index_lt_of_inBounds {bounds : SpriteBounds} {sp : Sprite} {row c : Nat}
    (h : inBounds bounds sp row c = true) : row * sp.width + c < sp.pixels.length := by
  cases bounds with
  | rect => exact (inBounds_rect_iff.1 h).2.2
  | linear => exact inBounds_linear_iff.1 h

theorem Sprite.isEmpty_iff {sp : Sprite} : sp.isEmpty = true ↔ sp.pixels = [] ∨ sp.width = 0 ∨ sp.height = 0 := by
  simp [Sprite.isEmpty, or_assoc]

/-- R114 to R116: what a sprite pixel leaves at its destination. -/
theorem pixelWrite_getD (cfg : Config) (cmd : DrawCommand) (p dest : Argb) :
    (pixelWrite cfg (isWalker cfg cmd) p).getD dest =
      if p.toNat / 2 ^ 24 = 0 then if cmd.spriteId = cfg.walkerId then opaqueColor cfg 0 else dest
      else if cfg.forceOpaque then p ||| 0xFF000000 else p := by
  simp only [pixelWrite, alphaOf_pos_iff, isWalker_iff]
  by_cases halpha : p.toNat / 2 ^ 24 = 0
  · rw [if_neg (not_not.2 halpha), if_pos halpha]
    split <;> rfl
  · rw [if_pos halpha, if_neg halpha]
    rfl

section
variable {cfg : Config} {anim : Anim} {cmd : DrawCommand} {sp : Sprite} {lx ly : Nat}

theorem localWrite_of_inBounds (h : inBounds cfg.spriteBounds sp (spriteRow cfg anim cmd sp ly) lx = true) :
    localWrite cfg anim cmd sp lx ly =
      pixelWrite cfg (isWalker cfg cmd)
        (sp.pixels[spriteRow cfg anim cmd sp ly * sp.width + lx]'(index_lt_of_inBounds h)) := by
  have hpixel : spritePixel cfg anim cmd sp lx ly =
      some (sp.pixels[spriteRow cfg anim cmd sp ly * sp.width + lx]'(index_lt_of_inBounds h)) :=
    (if_pos h).trans (List.getElem?_eq_getElem _)
  rw [localWrite, hpixel, Option.bind_some]

theorem localWrite_of_not_inBounds (h : ¬ inBounds cfg.spriteBounds sp (spriteRow cfg anim cmd sp ly) lx = true) :
    localWrite cfg anim cmd sp lx ly = none := by
  have hpixel : spritePixel cfg anim cmd sp lx ly = none := if_neg h
  rw [localWrite, hpixel, Option.bind_none]

end

/-! What a command writes. -/

section
variable {cfg : Config} {anim : Anim} {catalog : List (String × Sprite)} {cmd : DrawCommand}

theorem commandWrite_of_commandSprite_none (h : commandSprite catalog cmd = none) (x y : Nat) :
    commandWrite cfg anim catalog cmd x y = none := by
  rw [commandWrite, h, Option.bind_none]

/-- R104. -/
theorem commandSprite_eq_none
    (h : ∀ sp, mapFind catalog cmd.spriteId = some sp → sp.pixels = [] ∨ sp.width = 0 ∨ sp.height = 0) :
    commandSprite catalog cmd = none := by
  refine Option.filter_eq_none_iff.2 fun sp hsp => ?_
  simp [Sprite.isEmpty_iff.2 (h sp hsp)]

theorem commandSprite_eq_some {sp : Sprite} (hsp : mapFind catalog cmd.spriteId = some sp)
    (hne : ¬ sp.isEmpty = true) : commandSprite catalog cmd = some sp :=
  Option.filter_eq_some_iff.2 ⟨hsp, by simpa using hne⟩

theorem commandWrite_of_localPixel_none {x y : Nat} (h : localPixel cmd x y = none) :
    commandWrite cfg anim catalog cmd x y = none := by
  simp [commandWrite, h]

theorem commandWrite_of_localPixel {sp : Sprite} (hsp : commandSprite catalog cmd = some sp) {x y lx ly : Nat}
    (hl : localPixel cmd x y = some (lx, ly)) :
    commandWrite cfg anim catalog cmd x y = localWrite cfg anim cmd sp lx ly := by
  simp [commandWrite, hsp, hl]

theorem composite_singleton_get (col : Canvas Argb) (x : Fin canvasW) (y : Fin canvasH) :
    Canvas.get (composite cfg anim catalog col [cmd]) x y =
      (commandWrite cfg anim catalog cmd x y).getD (Canvas.get col x y) := by
  rw [composite_cons, composite_nil, paintCommand_get]

section
variable {sp : Sprite} {x : Fin canvasW} {y : Fin canvasH} {lx ly : Nat}

/-- R112 to R116: an in-bounds local pixel of a sprite that is not empty paints the canvas pixel it lands on. -/
theorem composite_singleton_get_of_inBounds (hsp : mapFind catalog cmd.spriteId = some sp)
    (hl : localPixel cmd x y = some (lx, ly)) (hne : ¬ sp.isEmpty = true)
    (hb : inBounds cfg.spriteBounds sp (spriteRow cfg anim cmd sp ly) lx = true) (col : Canvas Argb) :
    Canvas.get (composite cfg anim catalog col [cmd]) x y =
      (pixelWrite cfg (isWalker cfg cmd)
        (sp.pixels[spriteRow cfg anim cmd sp ly * sp.width + lx]'(index_lt_of_inBounds hb))).getD
        (Canvas.get col x y) := by
  rw [composite_singleton_get, commandWrite_of_localPixel (commandSprite_eq_some hsp hne) hl, localWrite_of_inBounds hb]

/-- R104, R113: in an empty sprite or out of bounds the destination stays. -/
theorem composite_singleton_get_of_skipped (hsp : mapFind catalog cmd.spriteId = some sp)
    (hl : localPixel cmd x y = some (lx, ly))
    (h : sp.isEmpty = true ∨ ¬ inBounds cfg.spriteBounds sp (spriteRow cfg anim cmd sp ly) lx = true)
    (col : Canvas Argb) : Canvas.get (composite cfg anim catalog col [cmd]) x y = Canvas.get col x y := by
  have hnone : commandWrite cfg anim catalog cmd x y = none := by
    by_cases he : sp.isEmpty = true
    · refine commandWrite_of_commandSprite_none (commandSprite_eq_none fun sp' hsp' => ?_) _ _
      rw [hsp, Option.some.injEq] at hsp'
      exact hsp' ▸ Sprite.isEmpty_iff.1 he
    · rw [commandWrite_of_localPixel (commandSprite_eq_some hsp he) hl, localWrite_of_not_inBounds (h.resolve_left he)]
  rw [composite_singleton_get, hnone, Option.getD_none]

end

end

/-- An in-bounds pixel, by Rect, is a pixel of a sprite that is not empty. -/
theorem Sprite.not_isEmpty_of_inBounds_rect {sp : Sprite} {row c : Nat} (h : inBounds .rect sp row c = true) :
    ¬ sp.isEmpty = true := by
  obtain ⟨hc, hrow, hlt⟩ := inBounds_rect_iff.1 h
  rw [Sprite.isEmpty_iff, ← List.length_eq_zero_iff]
  omega

/-- Settles O47: the command writes nothing, wherever it is painted. -/
theorem unknownOrEmptySpriteIsSkipped : Obligations.UnknownOrEmptySpriteIsSkipped := by
  intro cfg anim catalog col cmd q r h
  have hwrite (x : Fin canvasW) (y : Fin canvasH) : commandWrite cfg anim catalog cmd x y = none :=
    commandWrite_of_commandSprite_none (commandSprite_eq_none h) x y
  rw [composite_append, composite_append, composite_cons, paintCommand_eq_of_no_write hwrite]

/-- Settles O48: no local pixel lands outside the rectangle. -/
theorem pixelsOutsideTheRectangleAreKept : Obligations.PixelsOutsideTheRectangleAreKept := by
  intro cfg anim catalog col cmd x y h
  rw [composite_singleton_get, commandWrite_of_localPixel_none (localPixel_eq_none_of_outside h), Option.getD_none]

/-- Settles O49: the statement's condition is the Rect check at the command's explicit frame. -/
theorem otherSpritePaintsOverWhereOpaque : Obligations.OtherSpritePaintsOverWhereOpaque := by
  intro cfg anim catalog col cmd sp x y lx ly hsp _ hother hrect hlx hly hx hy
  have hl : localPixel cmd x y = some (lx, ly) := localPixel_eq_some_iff.2 ⟨⟨hx, hlx⟩, hy, hly⟩
  simp only [← spriteRow_of_other hother anim, ← inBounds_rect_iff]
  split
  · next hb =>
    rw [composite_singleton_get_of_inBounds hsp hl (Sprite.not_isEmpty_of_inBounds_rect hb) (hrect ▸ hb),
      pixelWrite_getD, if_neg hother]
  · next hb => exact composite_singleton_get_of_skipped hsp hl (.inr (hrect ▸ hb)) col

/-- Settles O50: the statement's condition is the Rect check at the synchronizer's frame. -/
theorem walkerForcesBackgroundWhereTransparent : Obligations.WalkerForcesBackgroundWhereTransparent := by
  intro cfg anim catalog col cmd sp x y lx ly hsp _ hwalker hrect hlx hly hx hy
  have hl : localPixel cmd x y = some (lx, ly) := localPixel_eq_some_iff.2 ⟨⟨hx, hlx⟩, hy, hly⟩
  simp only [← spriteRow_of_walker hwalker anim, ← inBounds_rect_iff]
  split
  · next hb =>
    rw [composite_singleton_get_of_inBounds hsp hl (Sprite.not_isEmpty_of_inBounds_rect hb) (hrect ▸ hb),
      pixelWrite_getD, if_pos hwalker]
    rfl
  · next hb => exact composite_singleton_get_of_skipped hsp hl (.inr (hrect ▸ hb)) col

/-- Settles O51: the statement's condition says that the sprite is not empty and the Linear check holds. -/
theorem linearBoundsCheckOnlyTheBufferLength : Obligations.LinearBoundsCheckOnlyTheBufferLength := by
  rintro cfg anim catalog col cmd sp x y lx ly _ _ hsp hlinear hlx hly hx hy rfl rfl
  have hl : localPixel cmd x y = some (lx, ly) := localPixel_eq_some_iff.2 ⟨⟨hx, hlx⟩, hy, hly⟩
  simp only [← spriteRow_eq]
  split
  · next h =>
    obtain ⟨⟨hw, hh⟩, hlt⟩ := h
    have hne : ¬ sp.isEmpty = true := by
      rw [Sprite.isEmpty_iff, ← List.length_eq_zero_iff]
      omega
    rw [composite_singleton_get_of_inBounds hsp hl hne (hlinear ▸ inBounds_linear_iff.2 hlt), pixelWrite_getD]
    rfl
  · next h =>
    refine composite_singleton_get_of_skipped hsp hl ?_ col
    rw [hlinear, inBounds_linear_iff, Sprite.isEmpty_iff]
    omega

/-- R121: by Rect, every row of a frame past the first is below the sprite. -/
theorem localWrite_of_explicitFrame {cfg : Config} {cmd : DrawCommand} (hrect : cfg.spriteBounds = .rect)
    (hother : cmd.spriteId ≠ cfg.walkerId) (hframe : 1 ≤ cmd.explicitFrameIndex) (anim : Anim) (sp : Sprite)
    (lx ly : Nat) : localWrite cfg anim cmd sp lx ly = none := by
  refine localWrite_of_not_inBounds ?_
  have hheight : sp.height ≤ cmd.explicitFrameIndex * sp.height := Nat.le_mul_of_pos_left _ hframe
  rw [hrect, inBounds_rect_iff, spriteRow_of_other hother]
  omega

/-- Settles O52: no local pixel writes, so no canvas pixel is written. -/
theorem otherSpritesShowOnlyFrameZero : Obligations.OtherSpritesShowOnlyFrameZero := by
  intro cfg anim catalog col cmd hrect hother hframe
  rw [composite_cons, composite_nil]
  refine paintCommand_eq_of_no_write (fun x y => ?_) col
  simp [commandWrite, localWrite_of_explicitFrame hrect hother hframe]

/-! The queue of a Tick. -/

/-- R85: the colours of a frame, with the guard on power save written out. -/
theorem frameColors_eq (s : State) (idx : Canvas (BitVec 2)) :
    frameColors s idx =
      if s.powerSave = true ∧ s.cfg.compositeWhilePowerSave = false then baseColors s.cfg idx
      else composite s.cfg s.anim s.catalog (baseColors s.cfg idx) s.queue := by
  by_cases h : s.powerSave = true ∧ s.cfg.compositeWhilePowerSave = false
  · rw [if_pos h, frameColors, h.1, h.2]
    rfl
  · rw [if_neg h, frameColors_composited]
    simpa [imp_iff_not_or] using h

/-- The index buffer does not depend on the queue, the colours are those of the queue given. -/
theorem colorOut_of_runInput_tick_withQueue {s t : State} {queue : List DrawCommand}
    (h : runInput .tick { s with queue := queue } = .next t) :
    t.colorOut = some (frameColors { s with queue := queue } (baseIndices s)) := by
  have hidx : baseIndices { s with queue := queue } = baseIndices s := baseIndices_congr rfl rfl rfl rfl rfl
  rw [colorOut_of_runInput_tick h, hidx]

/-- Settles O41: with nothing queued the base colours are published. -/
theorem tickCompositesOverTheBasePass : Obligations.TickCompositesOverTheBasePass := by
  intro s t u base ht hu hbase
  have hu' := colorOut_of_runInput_tick_withQueue hu
  rw [frameColors_of_queue_nil rfl, hbase, Option.some.injEq] at hu'
  rw [colorOut_of_runInput_tick ht, frameColors_eq, hu']

/-- Settles O46: the last command is painted over the canvas of the queue before it. -/
theorem laterCommandsOverdrawEarlierOnes : Obligations.LaterCommandsOverdrawEarlierOnes := by
  intro s t u cmd x y before after hguard ht hbefore hu hafter
  have ht' := colorOut_of_runInput_tick ht
  have hu' := colorOut_of_runInput_tick_withQueue hu
  have hguard' : ({ s with queue := s.queue ++ [cmd] } : State).powerSave = false ∨
      ({ s with queue := s.queue ++ [cmd] } : State).cfg.compositeWhilePowerSave = true := hguard
  rw [frameColors_composited hguard, hbefore, Option.some.injEq] at ht'
  rw [frameColors_composited hguard', hafter, Option.some.injEq] at hu'
  rw [hu', composite_append, composite_singleton_get, ← ht']

/-- R119: a command writes the same with any provenance key. -/
theorem commandWrite_withoutKey (cfg : Config) (anim : Anim) (catalog : List (String × Sprite)) (cmd : DrawCommand)
    (x y : Nat) : commandWrite cfg anim catalog cmd.withoutKey x y = commandWrite cfg anim catalog cmd x y := rfl

theorem paintCommand_withoutKey (cfg : Config) (anim : Anim) (catalog : List (String × Sprite)) (col : Canvas Argb)
    (cmd : DrawCommand) :
    paintCommand cfg anim catalog col cmd.withoutKey = paintCommand cfg anim catalog col cmd := by
  simp only [paintCommand, commandWrite_withoutKey]

theorem composite_map_withoutKey (cfg : Config) (anim : Anim) (catalog : List (String × Sprite)) (col : Canvas Argb)
    (q : List DrawCommand) :
    composite cfg anim catalog col (q.map DrawCommand.withoutKey) = composite cfg anim catalog col q := by
  simp only [composite, List.foldl_map, paintCommand_withoutKey]

/-- Settles O53: both queues paint what they paint without their keys. -/
theorem provenanceKeysAreNeverRead : Obligations.ProvenanceKeysAreNeverRead := by
  intro s t t' q hq ht ht'
  have hcomposite (col : Canvas Argb) :
      composite s.cfg s.anim s.catalog col q = composite s.cfg s.anim s.catalog col s.queue := by
    rw [← composite_map_withoutKey, hq, composite_map_withoutKey]
  refine ⟨spritesNeverChangeTheIndexBuffer s t t' s.catalog q s.anim ht ht', ?_⟩
  rw [colorOut_of_runInput_tick ht, colorOut_of_runInput_tick_withQueue ht', frameColors_eq, frameColors_eq]
  simp only [hcomposite]

/-! R105's double loop. -/

/-- A loop whose turn `k` alone acts on what `view` sees of the accumulator, and by `act`. -/
theorem view_foldl_range {β γ : Type} {f : β → Nat → β} {view : β → γ} {k : Int} {act : γ → γ}
    (hf : ∀ b (n : Nat), view (f b n) = if (n : Int) = k then act (view b) else view b) (b : β) (n : Nat) :
    view ((List.range n).foldl f b) = if 0 ≤ k ∧ k < n then act (view b) else view b := by
  induction n with
  | zero =>
    rw [if_neg (by omega)]
    rfl
  | succ n ih =>
    rw [List.range_succ, List.foldl_append, List.foldl_cons, List.foldl_nil, hf, ih]
    by_cases hk : (n : Int) = k
    · rw [if_pos hk, if_neg (by omega), if_pos (by omega)]
    · rw [if_neg hk]
      congr 1
      rw [eq_iff_iff]
      omega

/-- What local row `localY`, landing on `(x, y)`'s row, writes to canvas column `x`. -/
def rowWrite (cfg : Config) (anim : Anim) (cmd : DrawCommand) (sp : Sprite) (x localY : Nat) : Option Argb :=
  if 0 ≤ (x : Int) - cmd.destX ∧ (x : Int) - cmd.destX < cmd.destWidth then
    localWrite cfg anim cmd sp ((x : Int) - cmd.destX).toNat localY
  else none

/-- R108 to R110: a command's write is the write of the local row that lands on the pixel's row. -/
theorem commandWrite_eq_rowWrite {catalog : List (String × Sprite)} {cmd : DrawCommand} {sp : Sprite}
    (hsp : commandSprite catalog cmd = some sp) (cfg : Config) (anim : Anim) (x y : Nat) :
    commandWrite cfg anim catalog cmd x y =
      if 0 ≤ (y : Int) - cmd.destY ∧ (y : Int) - cmd.destY < cmd.destHeight then
        rowWrite cfg anim cmd sp x ((y : Int) - cmd.destY).toNat
      else none := by
  rw [commandWrite, hsp, Option.bind_some]
  simp only [localPixel, rowWrite]
  by_cases hx : 0 ≤ (x : Int) - cmd.destX ∧ (x : Int) - cmd.destX < cmd.destWidth <;>
    by_cases hy : 0 ≤ (y : Int) - cmd.destY ∧ (y : Int) - cmd.destY < cmd.destHeight
  · rw [if_pos ⟨hx.1, hx.2, hy⟩, if_pos hx, if_pos hy, Option.bind_some]
  · rw [if_neg fun h => hy h.2.2, if_neg hy, Option.bind_none]
  · rw [if_neg fun h => hx ⟨h.1, h.2.1⟩, if_neg hx, ite_self, Option.bind_none]
  · rw [if_neg fun h => hx ⟨h.1, h.2.1⟩, if_neg hy, Option.bind_none]

/-- The inner loop acts on a canvas pixel only where its row is the pixel's, and there in the turn of the pixel's column. -/
theorem foldl_paintLocal_get (cfg : Config) (anim : Anim) (cmd : DrawCommand) (sp : Sprite) (localY : Nat)
    (col : Canvas Argb) (x : Fin canvasW) (y : Fin canvasH) :
    Canvas.get ((List.range cmd.destWidth).foldl (paintLocal cfg anim cmd sp localY) col) x y =
      if (localY : Int) = y.val - cmd.destY then
        (rowWrite cfg anim cmd sp x ((y : Int) - cmd.destY).toNat).getD (Canvas.get col x y)
      else Canvas.get col x y := by
  by_cases hrow : (localY : Int) = y.val - cmd.destY
  · have hy : cmd.destY + localY = y.val := by omega
    have hturn (c : Canvas Argb) (n : Nat) : Canvas.get (paintLocal cfg anim cmd sp localY c n) x y =
        if (n : Int) = x.val - cmd.destX then
          (localWrite cfg anim cmd sp ((x : Int) - cmd.destX).toNat localY).getD (Canvas.get c x y)
        else Canvas.get c x y := by
      rw [paintLocal_get]
      by_cases hn : (n : Int) = x.val - cmd.destX
      · rw [if_pos hn, if_pos ⟨by omega, hy⟩, ← hn, Int.toNat_natCast]
      · rw [if_neg hn, if_neg fun hxy => hn (by omega)]
    rw [if_pos hrow, ← hrow, Int.toNat_natCast, view_foldl_range (view := fun c => Canvas.get c x y) hturn, rowWrite]
    split <;> rfl
  · have hturn (c : Canvas Argb) (n : Nat) :
        Canvas.get (paintLocal cfg anim cmd sp localY c n) x y = Canvas.get c x y := by
      rw [paintLocal_get, if_neg fun hxy => hrow (by omega)]
    rw [if_neg hrow]
    exact List.foldlRecOn (motive := fun c => Canvas.get c x y = Canvas.get col x y) _ _ rfl
      fun c hc n _ => (hturn c n).trans hc

/-- R105's loop over one command paints what the per-pixel computation paints. -/
theorem paintCommandLoop_eq_paintCommand (cfg : Config) (anim : Anim) (catalog : List (String × Sprite))
    (col : Canvas Argb) (cmd : DrawCommand) :
    paintCommandLoop cfg anim catalog col cmd = paintCommand cfg anim catalog col cmd := by
  unfold paintCommandLoop
  split
  · next hsp => exact (paintCommand_eq_of_no_write (fun x y => commandWrite_of_commandSprite_none hsp x y) col).symm
  · next sp hsp =>
    refine Canvas.ext_get fun x y => ?_
    rw [paintCommand_get, commandWrite_eq_rowWrite hsp,
      view_foldl_range (view := fun c => Canvas.get c x y)
        fun c localY => foldl_paintLocal_get cfg anim cmd sp localY c x y]
    split <;> rfl

/-- Settles O54, command by command. -/
theorem loopOverLocalPixelsPaintsTheSameCanvas : Obligations.LoopOverLocalPixelsPaintsTheSameCanvas := by
  intro cfg anim catalog col queue
  have hloop : paintCommandLoop cfg anim catalog = paintCommand cfg anim catalog := by
    funext c cmd
    exact paintCommandLoop_eq_paintCommand cfg anim catalog c cmd
  rw [hloop, composite]

end Sys2Proof.Machine
end
